-- ==== Sys2Proof/Word.lean ====
section
/-! DEFINITION. The widths of the engine's values (00_scope.md R7, R8; 20_memory.md R32): everything is unsigned, bit 0
is the least significant bit. -/

namespace Sys2Proof

/-- A 16-bit value: the register `crc`, a command word, a table entry (00_scope.md R7 `CRC_WIDTH`, `CMD_WIDTH`). -/
abbrev Word := BitVec 16

/-- A data byte, the operand of one FEED (00_scope.md R7 `DATA_WIDTH`). -/
abbrev Byte := BitVec 8

/-- Half a data byte, the index of the nibble table (00_scope.md R7 `TABLE_ENTRIES`). -/
abbrev Nibble := BitVec 4

end Sys2Proof
end

