-- ==== Sys2Proof/Syntax.lean ====
section
/-! DEFINITION. The commands of the engine, one constructor per row of spec/opcode_table.json (41_commands.md). -/

namespace Sys2Proof

/-- A legal command (30_encoding.md R45). Illegal words are no instructions: the decoder names them (Decode.lean). -/
inductive Instr where
  /-- NOP: no operation (41_commands.md R64). -/
  | nop
  /-- INIT: load the preset and start a new message (41_commands.md R65). -/
  | init
  /-- FEED b: fold one data byte into the CRC (41_commands.md R66). The operand is `imm8`, an unsigned byte (R44). -/
  | feed (b : Byte)
  deriving DecidableEq, Repr

end Sys2Proof
end

