-- ==== Sys2Proof/WellFormed.lean ====
section
/-! DEFINITION. Which field values and operands are legal (30_encoding.md R43, R44, R48). An `Instr` carries its operand
as a byte, so every term of it is well formed; what can be ill formed is a command's three fields and an assembler's
numeric operand. -/

namespace Sys2Proof

/-- The fields of format C16 (30_encoding.md R43). -/
structure Fields where
  /-- bits 15..12, the operation -/
  op : Nibble
  /-- bits 11..8, reserved -/
  rsv : Nibble
  /-- bits 7..0, the data byte -/
  imm8 : Byte
  deriving DecidableEq, Repr

/-- The reserved field "must be `0x0` in every legal command" (30_encoding.md R43). -/
def Fields.rsvOk (f : Fields) : Bool := f.rsv == 0

/-- Only the operations 0, 1 and 2 are assigned (30_encoding.md R46). -/
def Fields.opOk (f : Fields) : Bool := f.op == 0 || f.op == 1 || f.op == 2

/-- `imm8` "must be `0x00` for NOP and INIT" (30_encoding.md R43). -/
def Fields.immOk (f : Fields) : Bool := !(f.op == 0 || f.op == 1) || f.imm8 == 0

/-- The field values of a legal command (30_encoding.md R43). -/
def Fields.wellFormed (f : Fields) : Bool := f.opOk && f.rsvOk && f.immOk

/-- The fields that an instruction is written with (30_encoding.md R43, R45). -/
def Instr.fields : Instr → Fields
  | .nop => { op := 0, rsv := 0, imm8 := 0 }
  | .init => { op := 1, rsv := 0, imm8 := 0 }
  | .feed b => { op := 2, rsv := 0, imm8 := b }

/-- An instruction is well formed when its fields are; the byte operand leaves nothing else to check. -/
def Instr.wellFormed (i : Instr) : Bool := i.fields.wellFormed

/-- An assembler accepts a FEED operand from 0 to 255 (30_encoding.md R48). -/
def feedOperandOk (n : Nat) : Bool := n ≤ 255

/-- An assembler accepts any 16-bit value after `.word` (30_encoding.md R48). -/
def wordOperandOk (n : Nat) : Bool := n ≤ 65535

end Sys2Proof
end

