-- ==== Sys2Proof/Decode.lean ====
section
/-! DEFINITION. The command decoder, total on all 65 536 words (30_encoding.md R45, R46), and after it the encoder
(R48). A command is one 16-bit word of fixed length (R42). -/

namespace Sys2Proof

/-- Why a word is illegal: the four ranges of 30_encoding.md R46. The engine does not tell them apart (DESIGN CHOICE, log entry 17). -/
inductive IllegalKind where
  /-- `0x0001`–`0x0FFF`: NOP opcode with nonzero `rsv` or `imm8` -/
  | nopFields
  /-- `0x1001`–`0x1FFF`: INIT opcode with nonzero `rsv` or `imm8` -/
  | initFields
  /-- `0x2100`–`0x2FFF`: FEED opcode with nonzero `rsv` -/
  | feedReserved
  /-- `0x3000`–`0xFFFF`: unassigned opcode -/
  | unassigned
  deriving DecidableEq, Repr

/-- What a word decodes to: the `Cmd` of 30_encoding.md R45. -/
inductive Cmd where
  /-- a legal command -/
  | instr (i : Instr)
  /-- `ILLEGAL(w)`, with the range that `w` lies in -/
  | illegal (kind : IllegalKind) (w : Word)
  deriving DecidableEq, Repr

/-- `w[15:12]` (30_encoding.md R43). -/
def fieldOp (w : Word) : Nibble := w.extractLsb' 12 4

/-- `w[11:8]` (30_encoding.md R43). -/
def fieldRsv (w : Word) : Nibble := w.extractLsb' 8 4

/-- `w[7:0]` (30_encoding.md R43, R44). -/
def fieldImm8 (w : Word) : Byte := w.extractLsb' 0 8

/-- The three fields of a word (30_encoding.md R43). -/
def Fields.ofWord (w : Word) : Fields :=
  { op := fieldOp w, rsv := fieldRsv w, imm8 := fieldImm8 w }

/-- The range of 30_encoding.md R46 that an illegal word lies in, told by its opcode. -/
def illegalKind (w : Word) : IllegalKind :=
  if fieldOp w = 0 then .nopFields
  else if fieldOp w = 1 then .initFields
  else if fieldOp w = 2 then .feedReserved
  else .unassigned

/-- The decoder, branch by branch as 30_encoding.md R45 writes it. -/
def decode (w : Word) : Cmd :=
  if w = 0x0000#16 then .instr .nop
  else if w = 0x1000#16 then .instr .init
  else if fieldOp w = 2 ∧ fieldRsv w = 0 then .instr (.feed (fieldImm8 w))
  else .illegal (illegalKind w) w

/-- The word of a command (30_encoding.md R48). -/
def encode : Instr → Word
  | .nop => 0x0000#16
  | .init => 0x1000#16
  | .feed b => 0x2000#16 ||| b.setWidth 16

/-- The command word whose low `nbits` bits are those of `w` and whose other bits are 0. The engine has one word per
command and no memory, so there is no byte order to lay out (30_encoding.md R42; DEDUCED, log entry 15). -/
def tableWord (nbits w : Nat) : Word := BitVec.ofNat 16 (w % 2 ^ nbits)

/-- The instruction the decoder reads from the command word with the bits `w`; none where the word is illegal. -/
def decodeTableWord (nbits w : Nat) : Option Instr :=
  match decode (tableWord nbits w) with
  | .instr i => some i
  | .illegal _ _ => none

/-! Every constructor's decoding, by a word written out from the encoding table of 30_encoding.md R45
(op, rsv, imm8 from the left; the words are those of 95_test_vectors.md V-D1, V-D6 and V-D12). -/

theorem decode_nop_word : decode 0b0000_0000_00000000#16 = .instr .nop := by decide

theorem decode_init_word : decode 0b0001_0000_00000000#16 = .instr .init := by decide

theorem decode_feed_word : decode 0b0010_0000_01111111#16 = .instr (.feed 0x7F#8) := by decide

end Sys2Proof
end

