-- ==== Sys2Proof/Config.lean ====
section
/-! DEFINITION. What is fixed for the engine: the two algorithm parameters of the source (00_scope.md R2), the open
implementation parameters (00_scope.md R7), and the free values, opaque constants of which no proof can learn a value. Two
states, of one instance or of two, share them where their draw counters are equal (DESIGN CHOICE, log entry 21). -/

namespace Sys2Proof.Config

/-- `PRESET` (00_scope.md R2, R7). -/
def preset : Word := 0xFFFF#16

/-- `POLY_REFLECTED` (00_scope.md R2, R7). -/
def polyReflected : Word := 0xA001#16

/-- `IMPL`: how the byte step is built (00_scope.md R7; 40_crc_arithmetic.md R56, R57). -/
inductive Impl where
  /-- eight bit steps (R52) -/
  | bitSerial
  /-- two nibble lookups, the default and the normative form (R55) -/
  | nibbleTable
  /-- one byte lookup (R57) -/
  | byteTable
  deriving DecidableEq, Repr

/-- `RESET_STYLE` (00_scope.md R7; 70_reset_and_hazards.md R95). -/
inductive ResetStyle where
  | sync
  | async
  deriving DecidableEq, Repr

/-- The parameters left open to the implementation (00_scope.md R7; 93_implementation_defined.md I4 to I7). The
clock-level machine takes them as an argument, so its claims hold for all values. -/
structure Params where
  /-- `IMPL` -/
  impl : Impl
  /-- `LAT_NOP`, in cycles (70_reset_and_hazards.md R102) -/
  latNop : Nat
  /-- `LAT_INIT` -/
  latInit : Nat
  /-- `LAT_FEED` -/
  latFeed : Nat
  /-- `LAT_ILLEGAL` -/
  latIllegal : Nat
  /-- `RESET_STYLE` -/
  resetStyle : ResetStyle
  /-- the least number of edges `rst` must be held (R95) -/
  resetHold : Nat
  /-- the number of cycles after `rst` falls until `cmd_ready` rises (R95) -/
  readyDelay : Nat
  /-- `CRC_BASE`, the bus address a platform may map the engine at; nothing in the engine reads it (20_memory.md R35;
  DEDUCED, log entry 16) -/
  crcBase : Nat
  deriving DecidableEq, Repr

/-- FREE VALUE: `crc` at power-up, before the first reset (70_reset_and_hazards.md R96; DEDUCED, log entry 5). -/
opaque powerUpCrc : Word

/-- FREE VALUE: `err` at power-up, before the first reset (70_reset_and_hazards.md R96; DEDUCED, log entry 5). -/
opaque powerUpErr : Bool

/-- FREE VALUE: `err_word` at power-up, before the first reset (70_reset_and_hazards.md R96; DEDUCED, log entry 5). -/
opaque powerUpErrWord : Word

/-- FREE VALUE: what `crc_out` shows outside the valid window, draw by draw (10_state.md R23; DESIGN CHOICE, log entry 9). -/
opaque freeCrcOut : Nat → Word

/-- FREE VALUE: what `crc_zero` shows outside the valid window (10_state.md R23; DESIGN CHOICE, log entry 9). -/
opaque freeCrcZero : Nat → Bool

/-- FREE VALUE: what the port `err` shows outside the valid window (10_state.md R23; DESIGN CHOICE, log entry 9). -/
opaque freeErr : Nat → Bool

/-- FREE VALUE: what the port `err_word` shows outside the valid window (10_state.md R23; DESIGN CHOICE, log entry 9). -/
opaque freeErrWord : Nat → Word

/-- FREE VALUE: what `cmd_ready` shows before the first reset, draw by draw (70_reset_and_hazards.md R96; DEDUCED, log
entry 20). -/
opaque freeReady : Nat → Bool

/-- FREE VALUE: `crc` after a step or clock edge while no reset has taken effect (70_reset_and_hazards.md R96; DEDUCED, log
entry 20), and after an `rst` pulse shorter than the minimum (R95; DESIGN CHOICE, log entry 8). -/
opaque unspecCrc : Nat → Word

/-- FREE VALUE: `err` in the same two cases (log entries 20 and 8). -/
opaque unspecErr : Nat → Bool

/-- FREE VALUE: `err_word` in the same two cases (log entries 20 and 8). -/
opaque unspecErrWord : Nat → Word

end Sys2Proof.Config
end

