-- ==== Sys2Proof/Machine/State.lean ====
section
/-! DEFINITION. The state of one engine instance (10_state.md R11) with the port samples the host is about to drive, the
reasons a step can stop, and the state right after reset (10_state.md R24). -/

namespace Sys2Proof.Machine

/-- What the host drives on the input ports at one acceptance opportunity (10_state.md R21, R22). -/
structure PortSample where
  /-- the port `rst`, active high -/
  rst : Bool
  /-- the port `cmd_valid` -/
  cmdValid : Bool
  /-- the port `cmd_word` -/
  cmdWord : Word
  /-- `cmd_valid` and `cmd_word` met their setup and hold times (42_host_procedures.md R76) -/
  setupHold : Bool
  deriving DecidableEq, Repr

/-- What the four result ports carry (10_state.md R21). -/
structure Outputs where
  /-- the port `crc_out` -/
  crcOut : Word
  /-- the port `crc_zero` -/
  crcZero : Bool
  /-- the port `err` -/
  err : Bool
  /-- the port `err_word` -/
  errWord : Word
  deriving DecidableEq, Repr

/-- The architectural triple of 10_state.md R11, and three fields of the model's own: whether a reset has taken effect since
power-up (70_reset_and_hazards.md R96; DEDUCED, log entry 20), the host's coming port samples (DESIGN CHOICE, log entry 1),
and the counter of free values drawn (DESIGN CHOICE, log entry 9). The nibble table is a constant and no state (R16); the
engine has no memory and no program counter (R17, R19). -/
structure State where
  /-- the CRC accumulator (10_state.md R12) -/
  crc : Word
  /-- the sticky error flag (10_state.md R14) -/
  err : Bool
  /-- the first illegal word since reset (10_state.md R15) -/
  errWord : Word
  /-- a reset has taken effect since power-up: before it registers and outputs are unspecified -/
  wasReset : Bool
  /-- what the host drives at the coming opportunities, the next one first -/
  inputs : List PortSample
  /-- how many free values have been drawn -/
  draws : Nat
  deriving DecidableEq, Repr

/-- Reasons the machine stops. There is none: the engine's one exception records an error and goes on (60_exceptions.md
R79: "The engine does not stall, hang or refuse later commands"), so no step answers a fault (DEDUCED, log entry 10). -/
inductive Fault where
  deriving DecidableEq, Repr

/-- Reasons the model has no meaning for what happens. -/
inductive Refusal where
  /-- Raised by exec for an instruction without a meaning; no instruction is without one. Safe. -/
  | notModelled (mnemonic : String)
  /-- Raised by a step whose sample offers a command with setup or hold violated: "a word that violates them has no
  meaning in the model" (42_host_procedures.md R76; 93_implementation_defined.md I14; DEDUCED, log entry 4). Safe. -/
  | setupHoldViolated
  deriving DecidableEq, Repr

/-- The machine right after reset (10_state.md R24; 70_reset_and_hazards.md R92). That nothing is offered on the port and no
free value has been drawn is the model's (DESIGN CHOICE, log entries 2 and 9). -/
def State.reset : State :=
  { crc := 0xFFFF#16, err := false, errWord := 0x0000#16, wasReset := true, inputs := [], draws := 0 }

end Sys2Proof.Machine
end

