-- ==== Sys2Proof/Machine/Operands.lean ====
section
/-! DEFINITION. The parts of bytes and words that operands and results are taken in (30_encoding.md R44; 20_memory.md
R27, R28). -/

namespace Sys2Proof.Machine

/-- `b[3:0]`, consumed first (20_memory.md R28). -/
def lowNibble (b : Byte) : Nibble := b.extractLsb' 0 4

/-- `b[7:4]`, consumed second (20_memory.md R28). -/
def highNibble (b : Byte) : Nibble := b.extractLsb' 4 4

/-- `c[7:0]`, the first byte on the wire (20_memory.md R27). -/
def lowByte (c : Word) : Byte := c.extractLsb' 0 8

/-- `c[15:8]`, the second byte on the wire (20_memory.md R27). -/
def highByte (c : Word) : Byte := c.extractLsb' 8 8

/-- `zext_16` of a nibble (00_scope.md R9). -/
def zextNibble (n : Nibble) : Word := n.setWidth 16

/-- `zext_16` of a byte (00_scope.md R9). -/
def zextByte (b : Byte) : Word := b.setWidth 16

end Sys2Proof.Machine
end

