-- ==== Sys2Proof/Machine/Flags.lean ====
section
/-! DEFINITION. The derived status flag (10_state.md R13) and the result ports while the engine is idle (R23). -/

namespace Sys2Proof.Machine

/-- `crc_zero`, a flag with no storage of its own (10_state.md R13). -/
def State.crcZero (s : State) : Bool := s.crc == 0x0000#16

/-- What the result ports carry where the spec leaves them unspecified: free values, one set for each draw (10_state.md R23;
70_reset_and_hazards.md R96; DESIGN CHOICE, log entry 9), equal for states with equal draw counters (DESIGN CHOICE, log
entry 21). -/
def State.freeOutputs (s : State) : Outputs :=
  { crcOut := Config.freeCrcOut s.draws, crcZero := Config.freeCrcZero s.draws,
    err := Config.freeErr s.draws, errWord := Config.freeErrWord s.draws }

/-- The result ports of an idle engine: the registers (10_state.md R23), but free values before the first reset
(70_reset_and_hazards.md R96). -/
def State.outputs (s : State) : Outputs :=
  if s.wasReset then { crcOut := s.crc, crcZero := s.crcZero, err := s.err, errWord := s.errWord } else s.freeOutputs

/-- One free value more has been drawn. -/
def State.drawn (s : State) : State := { s with draws := s.draws + 1 }

/-- The host samples the result ports of an idle engine; before the first reset each sampling is a fresh draw
(93_implementation_defined.md I3). -/
def State.sample (s : State) : Outputs × State := (s.outputs, if s.wasReset then s else s.drawn)

/-- The observation of a run: the triple `(crc, err, err_word)` (42_host_procedures.md R77). -/
def State.observe (s : State) : Word × Bool × Word := (s.crc, s.err, s.errWord)

end Sys2Proof.Machine
end

