-- ==== Sys2Proof/Machine/Ops.lean ====
section
/-! DEFINITION. The named operations over the registers: the writes of INIT and FEED (10_state.md R12), taking the one
exception (60_exceptions.md R79), reset (70_reset_and_hazards.md R92) and power-up (R96). There is no memory to operate on
(10_state.md R19) and no return from an exception (60_exceptions.md R84). -/

namespace Sys2Proof.Machine

/-- `crc <- v`. -/
def State.setCrc (s : State) (v : Word) : State := { s with crc := v }

/-- `crc <- 0xFFFF` (41_commands.md R65). -/
def State.loadPreset (s : State) : State := s.setCrc Config.preset

/-- `crc <- step(crc, b)` (41_commands.md R66). -/
def State.foldByte (s : State) (b : Byte) : State := s.setCrc (crcStep s.crc b)

/-- `crc <- step(crc, b)` as the implementation variant computes it (40_crc_arithmetic.md R56). -/
def State.foldByteAs (impl : Config.Impl) (s : State) (b : Byte) : State := s.setCrc (crcStepAs impl s.crc b)

/-- TAKING THE EXCEPTION `IllegalCommand(w)`: the first word is recorded, `err` is set, `crc` is not written
(60_exceptions.md R79). There is no control transfer: "The whole entry is the register write of rule R79" (R83). -/
def State.raiseIllegal (s : State) (w : Word) : State :=
  { s with errWord := if s.err then s.errWord else w, err := true }

/-- Reset takes effect: the three registers (70_reset_and_hazards.md R92), which are specified from then on (R96). What the
host drives next is the host's. -/
def State.resetRegs (s : State) : State :=
  { s with
    crc := State.reset.crc, err := State.reset.err, errWord := State.reset.errWord, wasReset := State.reset.wasReset }

/-- The machine at power-up, before the first reset: every register a free value, and with them all outputs
(70_reset_and_hazards.md R96; DEDUCED, log entries 5 and 20). The spec has each of several instances draw its own (R96;
60_exceptions.md R89) and says nothing of how they relate; here two instances at power-up hold equal ones (DESIGN CHOICE, log
entry 21). -/
def State.powerUp (inputs : List PortSample) : State :=
  { crc := Config.powerUpCrc, err := Config.powerUpErr, errWord := Config.powerUpErrWord, wasReset := false,
    inputs := inputs, draws := 0 }

/-- Registers and outputs are unspecified, as before the first reset: fresh free values (70_reset_and_hazards.md R96; log
entries 8 and 20), equal for states with equal draw counters (DESIGN CHOICE, log entry 21). -/
def State.unspecified (s : State) : State :=
  { s with
    crc := Config.unspecCrc s.draws, err := Config.unspecErr s.draws, errWord := Config.unspecErrWord s.draws,
    wasReset := false, draws := s.draws + 1 }

end Sys2Proof.Machine
end

