-- ==== Sys2Proof/Machine/Commands.lean ====
section
/-! DEFINITION. The meanings of the three commands (41_commands.md R63 to R66). -/

namespace Sys2Proof.Machine

/-- NOP: `(no write)` (41_commands.md R64). -/
def execNop (s : State) : Host.Outcome State Fault Refusal := .next s

/-- INIT: `crc <- 0xFFFF` (41_commands.md R65). -/
def execInit (s : State) : Host.Outcome State Fault Refusal := .next s.loadPreset

/-- FEED b: `crc <- step(crc, b)` (41_commands.md R66). -/
def execFeed (b : Byte) (s : State) : Host.Outcome State Fault Refusal := .next (s.foldByte b)

end Sys2Proof.Machine
end

