-- ==== Sys2Proof/Machine/Accept.lean ====
section
/-! DEFINITION. Accepting a command word (41_commands.md R63) and what one port sample does (10_state.md R22;
60_exceptions.md R82; 70_reset_and_hazards.md R92, R94, R96). -/

namespace Sys2Proof.Machine

/-- The command word `w` is accepted: the `exec(s, w)` of 41_commands.md R63, a function of any state. Before the first reset
no step goes through it: `takeSample` then takes `sampleBeforeReset`. -/
def acceptWord (w : Word) (s : State) : Host.Outcome State Fault Refusal :=
  match decode w with
  | .instr i => exec i s
  | .illegal _ w => .next (s.raiseIllegal w)

/-- A port sample with `rst` = 0 before the first reset: whether an offered command is accepted and what the registers hold
are unspecified, so the registers are fresh free values (70_reset_and_hazards.md R96; DEDUCED, log entry 20). A command with
setup or hold violated is refused, as at any sample that may be accepted (DEDUCED, log entry 4). -/
def sampleBeforeReset (e : PortSample) (s : State) : Host.Outcome State Fault Refusal :=
  if e.cmdValid && !e.setupHold then .refused .setupHoldViolated else .next s.unspecified

/-- One port sample meets an idle engine. Reset dominates (60_exceptions.md R82). Before the first reset every other sample
leaves an unspecified engine (70_reset_and_hazards.md R96). Once a reset has taken effect, a command is accepted with `rst` = 0 and
`cmd_valid` = 1 (10_state.md R22), refused where its setup or hold is violated (42_host_procedures.md R76, DEDUCED, log entry 4);
with `cmd_valid` = 0 nothing is accepted and the state does not change (10_state.md R22, DESIGN CHOICE, log entry 3). -/
def takeSample (e : PortSample) (s : State) : Host.Outcome State Fault Refusal :=
  if e.rst then .next s.resetRegs
  else if !s.wasReset then sampleBeforeReset e s
  else if e.cmdValid then
    if e.setupHold then acceptWord e.cmdWord s else .refused .setupHoldViolated
  else .next s

/-- The sample that comes when the host drives nothing: `rst` = 0 and `cmd_valid` = 0. -/
def idleSample : PortSample := { rst := false, cmdValid := false, cmdWord := 0x0000#16, setupHold := true }

/-- The sample by which a host offers a command word. -/
def commandSample (w : Word) : PortSample := { rst := false, cmdValid := true, cmdWord := w, setupHold := true }

/-- The sample by which a host resets the engine. -/
def resetSample : PortSample := { rst := true, cmdValid := false, cmdWord := 0x0000#16, setupHold := true }

/-- The next port sample and the state in which it has been taken off the list; where the list is empty the host offers
nothing (42_host_procedures.md R76: it may "hold `cmd_valid` low for any time"). -/
def nextSample (s : State) : PortSample × State :=
  match s.inputs with
  | [] => (idleSample, s)
  | e :: rest => (e, { s with inputs := rest })

/-- The state in which the host offers the command word `w` next. -/
def State.offer (s : State) (w : Word) : State := { s with inputs := commandSample w :: s.inputs }

end Sys2Proof.Machine
end

