-- ==== Sys2Proof/Machine/Step.lean ====
section
/-! DEFINITION. One step: the engine, idle, meets the host's next port sample (00_scope.md R6: "One model step is one
accepted command word, or one reset"; a sample that offers neither changes no register, DESIGN CHOICE,
log entry 3). Before the first reset the registers are unspecified after every step (70_reset_and_hazards.md R96). -/

namespace Sys2Proof.Machine

def step (s : State) : Host.Outcome State Fault Refusal :=
  takeSample (nextSample s).1 (nextSample s).2

/-- `s` with the command word `w` offered next: the engine fetches nothing (10_state.md R17), the host presents its
commands (DESIGN CHOICE, log entry 1). -/
def State.withFetchWord (s : State) (nbits w : Nat) : State := s.offer (tableWord nbits w)

end Sys2Proof.Machine
end

