-- ==== Sys2Proof/Machine/Assembler.lean ====
section
/-! DEFINITION. The assembler and disassembler (30_encoding.md R48), over lists of characters. White space, the case of hex
digits, how many digits a number may have and the number forms of `.word` are the model's (DESIGN CHOICE, log entry 13), and so
is that pseudo-instructions are no source lines here (DESIGN CHOICE, log entry 18). -/

namespace Sys2Proof.Machine

/-- The words of a line, split at spaces and tabs; `current` holds the word being read, backwards. -/
def splitLine (current : List Char) : List Char → List (List Char)
  | [] => if current.isEmpty then [] else [current.reverse]
  | c :: cs =>
    if c = ' ' ∨ c = '\t' then
      if current.isEmpty then splitLine [] cs else current.reverse :: splitLine [] cs
    else splitLine (c :: current) cs

/-- A letter in lower case: mnemonics are case-insensitive (30_encoding.md R48). -/
def lowerCase (c : Char) : Char :=
  if 65 ≤ c.toNat ∧ c.toNat ≤ 90 then Char.ofNat (c.toNat + 32) else c

/-- The value of a digit in base 10 or 16. -/
def digitValue (base : Nat) (c : Char) : Option Nat :=
  let n := c.toNat
  if 48 ≤ n ∧ n ≤ 57 then some (n - 48)
  else if base = 16 ∧ 65 ≤ n ∧ n ≤ 70 then some (n - 55)
  else if base = 16 ∧ 97 ≤ n ∧ n ≤ 102 then some (n - 87)
  else none

/-- The value of a digit string, after the digits already read. -/
def digitsValue (base acc : Nat) : List Char → Option Nat
  | [] => some acc
  | c :: cs => (digitValue base c).bind fun d => digitsValue base (acc * base + d) cs

/-- A number: `0x` and hex digits, or decimal digits (30_encoding.md R48). -/
def numberValue : List Char → Option Nat
  | '0' :: 'x' :: d :: ds => digitsValue 16 0 (d :: ds)
  | d :: ds => digitsValue 10 0 (d :: ds)
  | [] => none

/-- One line of assembler source; none where the assembler refuses it (30_encoding.md R48). That `.word` takes its number in
the same two forms as FEED's `<byte>`, decimal or `0x` and hex digits, is the model's (DESIGN CHOICE, log entry 13): R48 gives
the forms for `<byte>` only. So is that a line with a pseudo-instruction is no line of this function (DESIGN CHOICE, log entry
18): R49 gives the expansions, which start from `Pseudo` values (Machine/Message.lean). -/
def assembleLine (line : List Char) : Option Word :=
  match splitLine [] line with
  | [m] =>
    if m.map lowerCase = ['n', 'o', 'p'] then some (encode .nop)
    else if m.map lowerCase = ['i', 'n', 'i', 't'] then some (encode .init)
    else none
  | [m, a] =>
    if m.map lowerCase = ['f', 'e', 'e', 'd'] then
      (numberValue a).bind fun n => if feedOperandOk n then some (encode (.feed (BitVec.ofNat 8 n))) else none
    else if m.map lowerCase = ['.', 'w', 'o', 'r', 'd'] then
      (numberValue a).bind fun n => if wordOperandOk n then some (BitVec.ofNat 16 n) else none
    else none
  | _ => none

/-- A hex digit, in upper case as 30_encoding.md R48 prints `0xHHHH`. -/
def hexDigit (n : Nibble) : Char :=
  ['0', '1', '2', '3', '4', '5', '6', '7', '8', '9', 'A', 'B', 'C', 'D', 'E', 'F'].getD n.toNat '0'

/-- The line a disassembler prints for a word (30_encoding.md R48). -/
def disassemble (w : Word) : List Char :=
  match decode w with
  | .instr .nop => ['N', 'O', 'P']
  | .instr .init => ['I', 'N', 'I', 'T']
  | .instr (.feed b) =>
    ['F', 'E', 'E', 'D', ' ', '0', 'x', hexDigit (b.extractLsb' 4 4), hexDigit (b.extractLsb' 0 4)]
  | .illegal _ w =>
    ['.', 'w', 'o', 'r', 'd', ' ', '0', 'x', hexDigit (w.extractLsb' 12 4), hexDigit (w.extractLsb' 8 4),
      hexDigit (w.extractLsb' 4 4), hexDigit (w.extractLsb' 0 4)]

end Sys2Proof.Machine
end

