-- ==== Sys2Proof/Machine/Run.lean ====
section
/-! DEFINITION. Runs: several steps in a row, and several commands accepted in a row (20_memory.md R37;
42_host_procedures.md R77). -/

namespace Sys2Proof.Machine

/-- `n` steps, stopping at the first that gives no next state. -/
def runSteps : Nat → State → Host.Outcome State Fault Refusal
  | 0, s => .next s
  | n + 1, s =>
    match step s with
    | .next t => runSteps n t
    | .fault f => .fault f
    | .refused r => .refused r

/-- The state after a command word; every word has an effect (41_commands.md R63: "a total function of the state and the
word"), so the second branch is never taken. A step takes it once a reset has taken effect (70_reset_and_hazards.md R96). -/
def State.applyWord (s : State) (w : Word) : State :=
  match acceptWord w s with
  | .next t => t
  | .fault _ | .refused _ => s

/-- The state after a list of command words, in acceptance order (20_memory.md R37). -/
def State.applyWords (s : State) (ws : List Word) : State := ws.foldl State.applyWord s

/-- The samples by which a host offers a list of commands, one after the other. -/
def commandSamples (ws : List Word) : List PortSample := ws.map commandSample

/-- The command words a list of samples gets accepted by an idle engine that has been reset, in order. -/
def acceptedWords (es : List PortSample) : List Word :=
  (es.filter fun e => !e.rst && e.cmdValid && e.setupHold).map (·.cmdWord)

end Sys2Proof.Machine
end

