-- ==== Sys2Proof/Machine/Clocked.lean ====
section
/-! DEFINITION. The clock level around the command-level machine: the handshake, latencies and reset as the ports show them
(10_state.md R20 to R23; 70_reset_and_hazards.md R92 to R98, R102, R103), for every value of the open parameters. The
command-level machine is the model (00_scope.md R6); what is here says how its steps look at the edges of `clk`, and its
state is not architectural (10_state.md R20; DEDUCED, log entry 6). -/

namespace Sys2Proof.Machine

/-- An accepted command whose effect is not yet in the state (10_state.md R20). -/
structure InFlight where
  /-- the accepted command word -/
  word : Word
  /-- the number of edges until its effect is in the state -/
  left : Nat
  deriving DecidableEq, Repr

/-- The engine between two edges of `clk`. Its `eng.inputs` are what the ports carry at the coming edges. -/
structure Clocked where
  /-- the architectural state -/
  eng : State
  /-- the command in progress, if there is one -/
  inFlight : Option InFlight
  /-- the number of edges until `cmd_ready` rises after a reset (70_reset_and_hazards.md R95) -/
  settle : Nat
  /-- the number of edges in a row that `rst` has been 1 -/
  held : Nat
  deriving DecidableEq, Repr

/-- The clock level at power-up, before the first reset (70_reset_and_hazards.md R96; DEDUCED, log entry 20). -/
def Clocked.powerUp (inputs : List PortSample) : Clocked :=
  { eng := State.powerUp inputs, inFlight := none, settle := 0, held := 0 }

/-- A reset has taken effect since power-up, no command is in progress, and no ready delay is running. -/
def Clocked.idle (c : Clocked) : Bool := c.eng.wasReset && c.inFlight.isNone && c.settle == 0

/-- How many edges with `rst` = 0 it takes until the engine is ready: the command in progress, then the rest of a ready
delay (70_reset_and_hazards.md R103). -/
def Clocked.edgesToReady (c : Clocked) : Nat :=
  match c.inFlight with
  | some q => max q.left 1 + c.settle
  | none => c.settle

/-- The port `cmd_ready`, given the level of `rst` (10_state.md R21, R22): 0 while `rst` = 1 (70_reset_and_hazards.md R92),
and otherwise a free value before the first reset (R96; DEDUCED, log entry 20). -/
def Clocked.cmdReady (rst : Bool) (c : Clocked) : Bool :=
  !rst && if c.eng.wasReset then c.idle else Config.freeReady c.eng.draws

/-- The host polls `cmd_ready`; where it is free, each poll is a fresh draw. -/
def Clocked.sampleReady (rst : Bool) (c : Clocked) : Bool × Clocked :=
  (c.cmdReady rst, if rst || c.eng.wasReset then c else { c with eng := c.eng.drawn })

/-- The host samples the result ports: the registers in the valid window, which needs a reset (70_reset_and_hazards.md R96),
`cmd_ready` = 1 and `rst` = 0, and free values outside it (10_state.md R23; DESIGN CHOICE, log entry 9). -/
def Clocked.sample (rst : Bool) (c : Clocked) : Outputs × Clocked :=
  if !rst && c.idle then (c.eng.outputs, c) else (c.eng.freeOutputs, { c with eng := c.eng.drawn })

/-- `LAT_op` of a command word (70_reset_and_hazards.md R102). -/
def latencyOf (p : Config.Params) (w : Word) : Nat :=
  match decode w with
  | .instr .nop => p.latNop
  | .instr .init => p.latInit
  | .instr (.feed _) => p.latFeed
  | .illegal _ _ => p.latIllegal

/-- The effect of a command word as the implementation variant `IMPL` computes it (40_crc_arithmetic.md R56). -/
def acceptWordAs (impl : Config.Impl) (w : Word) (s : State) : Host.Outcome State Fault Refusal :=
  match decode w with
  | .instr (.feed b) => .next (s.foldByteAs impl b)
  | .instr .nop | .instr .init | .illegal _ _ => acceptWord w s

/-- The effect of a command word enters the state, all of it at once (20_memory.md R33). -/
def Clocked.commit (p : Config.Params) (w : Word) (c : Clocked) : Host.Outcome Clocked Fault Refusal :=
  match acceptWordAs p.impl w c.eng with
  | .next t => .next { c with eng := t, inFlight := none }
  | .fault f => .fault f
  | .refused r => .refused r

/-- `rst` = 1, for `edges` edges so far. Once it has been held for the minimum, reset takes effect and a command in
progress is aborted (70_reset_and_hazards.md R92, R93); before that the engine is unspecified, as before the first reset
(R95; DESIGN CHOICE, log entry 8). -/
def Clocked.underReset (p : Config.Params) (edges : Nat) (c : Clocked) : Clocked :=
  { eng := if p.resetHold ≤ edges then c.eng.resetRegs else c.eng.unspecified,
    inFlight := none, settle := p.readyDelay, held := edges }

/-- `rst` rises between two edges: an asynchronous reset acts at once, a synchronous one waits for the edge
(70_reset_and_hazards.md R95). -/
def Clocked.rstRises (p : Config.Params) (c : Clocked) : Clocked :=
  match p.resetStyle with
  | .sync => c
  | .async => c.underReset p 0

/-- A command word meets a ready engine at a rising edge: accepted, its effect in the state at once with latency 0, else
after as many edges as its latency (10_state.md R22; 70_reset_and_hazards.md R102; DEDUCED, log entry 7). -/
def Clocked.accept (p : Config.Params) (w : Word) (c : Clocked) : Host.Outcome Clocked Fault Refusal :=
  match latencyOf p w with
  | 0 => c.commit p w
  | k + 1 => .next { c with inFlight := some { word := w, left := k + 1 } }

/-- One rising edge with `rst` = 0 and the sample `e` on the ports. -/
def Clocked.running (p : Config.Params) (e : PortSample) (c : Clocked) : Host.Outcome Clocked Fault Refusal :=
  match c.inFlight with
  | some q =>
    if q.left ≤ 1 then c.commit p q.word
    else .next { c with inFlight := some { q with left := q.left - 1 } }
  | none =>
    if c.settle ≠ 0 then .next { c with settle := c.settle - 1 }
    else if e.cmdValid then
      if e.setupHold then c.accept p e.cmdWord else .refused .setupHoldViolated
    else .next c

/-- One rising edge with `rst` = 0 before the first reset: the engine is unspecified, as on the command level
(70_reset_and_hazards.md R96; DEDUCED, log entry 20). -/
def Clocked.beforeReset (e : PortSample) (c : Clocked) : Host.Outcome Clocked Fault Refusal :=
  match sampleBeforeReset e c.eng with
  | .next t => .next { c with eng := t, inFlight := none }
  | .fault f => .fault f
  | .refused r => .refused r

/-- One rising edge of `clk`: the next sample is on the ports (nothing is offered where the list is empty). -/
def Clocked.edge (p : Config.Params) (c : Clocked) : Host.Outcome Clocked Fault Refusal :=
  let e := (nextSample c.eng).1
  let d := { c with eng := (nextSample c.eng).2 }
  if e.rst then .next (d.underReset p (d.held + 1))
  else if d.eng.wasReset then Clocked.running p e { d with held := 0 }
  else Clocked.beforeReset e { d with held := 0 }

/-- `n` rising edges, stopping at the first that gives no next state. -/
def Clocked.edges (p : Config.Params) : Nat → Clocked → Host.Outcome Clocked Fault Refusal
  | 0, c => .next c
  | n + 1, c =>
    match c.edge p with
    | .next d => Clocked.edges p n d
    | .fault f => .fault f
    | .refused r => .refused r

/-- The architectural state once the command in progress has completed: what the clock level stands for on the command
level. -/
def Clocked.settled (c : Clocked) : State :=
  match c.inFlight with
  | some q => c.eng.applyWord q.word
  | none => c.eng

/-- The samples of a host that waits: each command word for one edge, then nothing until its latency has passed. -/
def pacedSamples (p : Config.Params) (ws : List Word) : List PortSample :=
  ws.flatMap fun w => commandSample w :: List.replicate (latencyOf p w) idleSample

end Sys2Proof.Machine
end

