-- ==== Sys2Proof/Machine/Instances.lean ====
section
/-! DEFINITION. Several engine instances side by side (10_state.md R25; 60_exceptions.md R89): each has its own state, and a
step of one is a step of that one. The unspecified values of two instances are equal where their draw counters are (DESIGN
CHOICE, log entry 21). -/

namespace Sys2Proof.Machine

/-- Instance `k` of a platform's engines takes a step; where there is no instance `k`, nothing happens. -/
def stepInstance (k : Nat) (engines : List State) : Host.Outcome (List State) Fault Refusal :=
  match engines[k]? with
  | none => .next engines
  | some s =>
    match step s with
    | .next t => .next (engines.set k t)
    | .fault f => .fault f
    | .refused r => .refused r

end Sys2Proof.Machine
end

