-- ==== Sys2Proof/Machine/Message.lean ====
section
/-! DEFINITION. Messages and the host's procedures on them: the fold (40_crc_arithmetic.md R58), the pseudo-instructions
(30_encoding.md R49), building and parsing a frame (42_host_procedures.md R72 to R75). -/

namespace Sys2Proof.Machine

/-- The CRC of a byte sequence from a start value (40_crc_arithmetic.md R58). -/
def crcFrom : Word → List Byte → Word
  | c, [] => c
  | c, b :: bs => crcFrom (crcStep c b) bs

/-- `checksum(bs)` (40_crc_arithmetic.md R58). -/
def checksum (bs : List Byte) : Word := crcFrom 0xFFFF#16 bs

/-- `validate(f)` (40_crc_arithmetic.md R58). -/
def validate (f : List Byte) : Bool := checksum f == 0x0000#16

/-- The two bytes of a checksum in wire order, low byte first (20_memory.md R27). -/
def wireBytes (c : Word) : List Byte := [lowByte c, highByte c]

/-- Two bytes read little-endian (42_host_procedures.md R71). -/
def ofWireBytes (lo hi : Byte) : Word := (zextByte hi <<< 8) ||| zextByte lo

/-- A byte sequence with its checksum appended (42_host_procedures.md R72). -/
def appendCrc (bs : List Byte) : List Byte := bs ++ wireBytes (checksum bs)

/-- The frame of an address, a function code and data (42_host_procedures.md R72). -/
def buildFrame (address functionCode : Byte) (data : List Byte) : List Byte :=
  appendCrc (address :: functionCode :: data)

/-- `f` with bit `j` of byte `k` flipped (40_crc_arithmetic.md R62). -/
def flipBit : List Byte → Nat → Nat → List Byte
  | [], _, _ => []
  | b :: bs, 0, j => (b ^^^ (1#8 <<< j)) :: bs
  | b :: bs, k + 1, j => b :: flipBit bs k j

/-- The pseudo-instructions (30_encoding.md R49), as values: how a source line with one is read is not modelled (DESIGN
CHOICE, log entry 18). -/
inductive Pseudo where
  | checksum (bs : List Byte)
  | validate (f : List Byte)
  | feeds (bs : List Byte)
  deriving DecidableEq, Repr

/-- The plain commands a pseudo-instruction expands to (30_encoding.md R49). -/
def expandPseudo : Pseudo → List Instr
  | .checksum bs => .init :: bs.map .feed
  | .validate f => .init :: f.map .feed
  | .feeds bs => bs.map .feed

/-- The command words of a pseudo-instruction. -/
def pseudoWords (p : Pseudo) : List Word := (expandPseudo p).map encode

/-- The bytes a list of command words feeds, in order (41_commands.md R66). -/
def fedBytes (ws : List Word) : List Byte :=
  ws.filterMap fun w =>
    match decode w with
    | .instr (.feed b) => some b
    | .instr .nop | .instr .init | .illegal _ _ => none

/-- What the host concludes from a received frame (42_host_procedures.md R73, R74, R75). -/
inductive Verdict where
  /-- `ShortFrame`: fewer than 4 bytes (R73) -/
  | shortFrame
  /-- `CrcMismatch`: validation is on and the residue is not zero (R74) -/
  | crcMismatch
  /-- the address and the payload (R75) -/
  | frame (address : Byte) (payload : List Byte)
  deriving DecidableEq, Repr

/-- The host's parse of a received frame: the length (R73), the CRC where validation is on (R74, D21), then `frame[0]`
and `frame[1 : len−2]` (R75). The length is checked first (DESIGN CHOICE, log entry 14). With validation off the same address
and payload come out of every frame of 4 or more bytes, valid or not (DESIGN CHOICE, log entry 19): R75 gives the extraction
after a frame validates, and R74 says only that validation may be skipped. -/
def hostParse (validation : Bool) (f : List Byte) : Verdict :=
  if f.length < 4 then .shortFrame
  else if validation && !validate f then .crcMismatch
  else .frame (f.getD 0 0) ((f.take (f.length - 2)).drop 1)

end Sys2Proof.Machine
end

