-- ==== Sys2Proof/Safety.lean ====
section
/-! DEFINITION. What counts as a safe run and the invariant the machine keeps, in the terms the statements use. -/

namespace Sys2Proof

open Sys2Proof.Machine

/-- No fault was recorded: "a claim that \"no fault was recorded\" is the claim `err = 0`" (60_exceptions.md R79). -/
def Safety.noErrorRecorded (s : State) : Bool := !s.err

/-- A word is illegal (30_encoding.md R46). -/
def Safety.illegalWord (w : Word) : Bool :=
  match decode w with
  | .instr _ => false
  | .illegal _ _ => true

/-- The error record is consistent (10_state.md R14, R15): with `err` = 0 the record is `0x0000`, with `err` = 1 it is an
illegal word. -/
def Safety.errorRecordOk (s : State) : Bool :=
  if s.err then Safety.illegalWord s.errWord else s.errWord == 0x0000#16

/-- The host resets the engine nowhere in these samples. -/
def Safety.noReset (es : List PortSample) : Bool := es.all fun e => !e.rst

/-- The host meets setup and hold wherever it offers a command (42_host_procedures.md R76). -/
def Safety.timed (es : List PortSample) : Bool := es.all fun e => e.rst || !e.cmdValid || e.setupHold

end Sys2Proof
end

