-- ==== Sys2Proof/Certificates/Slice0/Obligations.lean ====
section
/-! DEFINITION. The statements for the provers, in the order of OBLIGATIONS.json. Each docstring names the rule or
sections of spec/ it states. -/

open Sys2Proof Sys2Proof.Machine

/-! ## Encoding (30_encoding.md) -/

/-- DECODE AND ENCODE AGREE, one way: no command loses a bit of its operand (30_encoding.md R45, R48). -/
def Obligations.DecodeEncodeRoundTrip : Prop := ∀ i : Instr, decode (encode i) = .instr i

/-- DECODE AND ENCODE AGREE, the other way: a legal word is the word of the command it decodes to (30_encoding.md R45,
"Every word matches at most one row", R47). -/
def Obligations.EncodeOfDecodedWord : Prop := ∀ (w : Word) (i : Instr), decode w = .instr i → encode i = w

/-- 30_encoding.md R45, row by row of its match and mask table: what a matching word decodes to, which words a row
matches, that a word matches one row at most, and that a word of no row is illegal. -/
def Obligations.OpcodeMapDecides : Prop :=
  (∀ w : Word, w &&& 0xFFFF#16 = 0x0000#16 → decode w = .instr .nop) ∧
  (∀ w : Word, w &&& 0xFFFF#16 = 0x1000#16 → decode w = .instr .init) ∧
  (∀ w : Word, w &&& 0xFF00#16 = 0x2000#16 → decode w = .instr (.feed (w.setWidth 8))) ∧
  (∀ w : Word, w &&& 0xFFFF#16 ≠ 0x0000#16 → w &&& 0xFFFF#16 ≠ 0x1000#16 → w &&& 0xFF00#16 ≠ 0x2000#16 →
    ∃ kind, decode w = .illegal kind w) ∧
  (∀ w : Word, (w &&& 0xFFFF#16 = 0x0000#16 ↔ w.toNat = 0) ∧ (w &&& 0xFFFF#16 = 0x1000#16 ↔ w.toNat = 0x1000) ∧
    (w &&& 0xFF00#16 = 0x2000#16 ↔ 0x2000 ≤ w.toNat ∧ w.toNat ≤ 0x20FF)) ∧
  (∀ w : Word, ¬(w &&& 0xFFFF#16 = 0x0000#16 ∧ w &&& 0xFF00#16 = 0x2000#16) ∧
    ¬(w &&& 0xFFFF#16 = 0x1000#16 ∧ w &&& 0xFF00#16 = 0x2000#16) ∧
    ¬(w &&& 0xFFFF#16 = 0x0000#16 ∧ w &&& 0xFFFF#16 = 0x1000#16))

/-- 30_encoding.md R46: the four ranges of illegal words and no other word, their number, and that an accepted illegal word
raises IllegalCommand and does not change `crc`. -/
def Obligations.IllegalWordRanges : Prop :=
  (∀ w : Word, Safety.illegalWord w = true ↔
    (0x0001 ≤ w.toNat ∧ w.toNat ≤ 0x0FFF) ∨ (0x1001 ≤ w.toNat ∧ w.toNat ≤ 0x1FFF) ∨
    (0x2100 ≤ w.toNat ∧ w.toNat ≤ 0x2FFF) ∨ 0x3000 ≤ w.toNat) ∧
  (∀ w : Word, Safety.illegalWord w = true → ∃ kind, decode w = .illegal kind w) ∧
  ((List.range 65536).countP fun n => Safety.illegalWord (BitVec.ofNat 16 n)) = 65278 ∧
  (∀ (w : Word) (s : State), Safety.illegalWord w = true →
    acceptWord w s = .next (s.raiseIllegal w) ∧ (s.raiseIllegal w).crc = s.crc)

/-- The decoder accepts a word exactly when its fields are legal as 30_encoding.md R43 says: an assigned operation, `rsv`
zero, `imm8` zero for NOP and INIT. -/
def Obligations.LegalWordIffFieldsLegal : Prop :=
  ∀ w : Word, Safety.illegalWord w = false ↔
    (w.extractLsb' 8 4 = 0 ∧
      ((w.extractLsb' 12 4 = 0 ∧ w.extractLsb' 0 8 = 0) ∨ (w.extractLsb' 12 4 = 1 ∧ w.extractLsb' 0 8 = 0) ∨
        w.extractLsb' 12 4 = 2))

/-- A few words written out from the encoding table of 30_encoding.md R45 (95_test_vectors.md, section 2.6). -/
def Obligations.WordsOfTheDecodeTable : Prop :=
  decode 0x0000#16 = .instr .nop ∧ decode 0x1000#16 = .instr .init ∧ decode 0x2000#16 = .instr (.feed 0x00#8) ∧
  decode 0x207F#16 = .instr (.feed 0x7F#8) ∧ decode 0x20FF#16 = .instr (.feed 0xFF#8) ∧
  ([0x0001#16, 0x0F00#16, 0x1001#16, 0x1100#16, 0x2100#16, 0x2FFF#16, 0x3000#16, 0xFFFF#16].all
    Safety.illegalWord) = true

/-! ## Commands (41_commands.md) -/

/-- 41_commands.md R64: NOP is the word `0x0000` exactly and writes nothing, so `err`, `err_word` and `crc_zero` are as
before; any other word with opcode 0 is illegal. Here and below, a step executes commands once a reset has taken effect
(70_reset_and_hazards.md R96); UnspecifiedUntilReset says what it does before. -/
def Obligations.NopChangesNothing : Prop :=
  (encode .nop = 0x0000#16) ∧
  (∀ s : State, exec .nop s = .next s ∧ (s.wasReset = true → step (s.offer 0x0000#16) = .next s)) ∧
  (∀ w : Word, w.extractLsb' 12 4 = 0 → w ≠ 0x0000#16 → ∃ kind, decode w = .illegal kind w) ∧
  (∀ s : State, s.crc = 0x1234#16 → exec .nop s = .next { s with crc := 0x1234#16 })

/-- 41_commands.md R65: INIT is the word `0x1000` exactly, loads the preset, clears `crc_zero`, leaves `err` and `err_word`,
is idempotent, and changes nothing right after reset. -/
def Obligations.InitLoadsPreset : Prop :=
  (encode .init = 0x1000#16) ∧
  (∀ s : State,
    exec .init s = .next { s with crc := 0xFFFF#16 } ∧
    (s.wasReset = true → step (s.offer 0x1000#16) = .next { s with crc := 0xFFFF#16 }) ∧
    State.crcZero { s with crc := 0xFFFF#16 } = false ∧
    exec .init { s with crc := 0xFFFF#16 } = .next { s with crc := 0xFFFF#16 }) ∧
  (∀ ins : List PortSample,
    exec .init { State.reset with inputs := ins } = .next { State.reset with inputs := ins }) ∧
  (checksum [] = 0xFFFF#16) ∧
  (∀ s : State, s.crc = 0x1EC0#16 → ∃ t, exec .init s = .next t ∧ t.crc = 0xFFFF#16)

/-- 41_commands.md R66: FEED b is the word `0x2000 | b`, folds its byte by the two nibble lines of the rule under every
IMPL, sets `crc_zero` from the result, and leaves `err` and `err_word`, from every state and for every byte. -/
def Obligations.FeedFoldsOneByte : Prop :=
  (∀ (s : State) (b : Byte),
    let m := (s.crc >>> 4) ^^^ t16 (((s.crc ^^^ (b.extractLsb' 0 4).setWidth 16) &&& 0xF#16).setWidth 4)
    let r := (m >>> 4) ^^^ t16 (((m ^^^ (b.extractLsb' 4 4).setWidth 16) &&& 0xF#16).setWidth 4)
    exec (.feed b) s = .next { s with crc := r } ∧
    (s.wasReset = true → step (s.offer (encode (.feed b))) = .next { s with crc := r }) ∧
    (∀ impl : Config.Impl, crcStepAs impl s.crc b = r) ∧
    (State.crcZero { s with crc := r } = true ↔ r = 0x0000#16)) ∧
  (∀ b : Byte, encode (.feed b) = 0x2000#16 ||| b.setWidth 16 ∧ (encode (.feed b)).extractLsb' 8 4 = 0#4 ∧
    (encode (.feed b)).extractLsb' 0 8 = b) ∧
  (∀ s : State,
    exec (.feed 0x00#8) { s with crc := 0x0000#16 } = .next { s with crc := 0x0000#16 } ∧
    exec (.feed 0x01#8) { s with crc := 0x0001#16 } = .next { s with crc := 0x0000#16 } ∧
    exec (.feed 0xFF#8) { s with crc := 0xFFFF#16 } = .next { s with crc := 0x00FF#16 } ∧
    exec (.feed 0x80#8) { s with crc := 0x0000#16 } = .next { s with crc := 0xA001#16 } ∧
    exec (.feed 0x01#8) { s with crc := 0xFFFF#16 } = .next { s with crc := 0x807E#16 })

/-- THE FRAME of the three commands (41_commands.md R64, R65, R66; 10_state.md R14, R15): a legal command answers a next
state that differs from the one before in `crc` at most, and NOP not even there; every other field of State is as before,
whether a reset has taken effect and the model's own fields (the coming samples, log entry 1, and the draw counter, log
entry 9) too. The engine has no memory whose bytes a command could store to (10_state.md R19). -/
def Obligations.LegalCommandsWriteOnlyCrc : Prop :=
  ∀ (i : Instr) (s : State), ∃ t, exec i s = .next t ∧
    t.err = s.err ∧ t.errWord = s.errWord ∧ t.wasReset = s.wasReset ∧ t.inputs = s.inputs ∧ t.draws = s.draws ∧
    (i = .nop → t.crc = s.crc)

/-- 41_commands.md R63: accepting a word is the function of state and word that the rule writes out, and the registers
change only through it and through reset (before the first reset they are unspecified, 70_reset_and_hazards.md R96). -/
def Obligations.AcceptingAWord : Prop :=
  (∀ (w : Word) (s : State),
    (decode w = .instr .nop → acceptWord w s = .next s) ∧
    (decode w = .instr .init → acceptWord w s = .next { s with crc := 0xFFFF#16 }) ∧
    (∀ b, decode w = .instr (.feed b) → acceptWord w s = .next { s with crc := crcStep s.crc b }) ∧
    (Safety.illegalWord w = true →
      acceptWord w s = .next { s with err := true, errWord := if s.err then s.errWord else w })) ∧
  (∀ s t : State, s.wasReset = true → step s = .next t → t.observe ≠ s.observe →
    ((nextSample s).1.rst = true ∧ t.observe = (0xFFFF#16, false, 0x0000#16)) ∨
    ((nextSample s).1.rst = false ∧ (nextSample s).1.cmdValid = true ∧
      acceptWord (nextSample s).1.cmdWord (nextSample s).2 = .next t))

/-- A STEP RUNS THE DECODED INSTRUCTION (10_state.md R22, 41_commands.md R63): a legal word offered to the idle engine is
executed on the state whose next sample has been taken off (that commands come as samples in the state is the model's
choice, log entry 1; no program counter is there to move). Before the first reset it is unspecified whether the word is accepted
and what the registers then hold (70_reset_and_hazards.md R96; log entry 20): UnspecifiedUntilReset. -/
def Obligations.StepRunsDecodedInstruction : Prop :=
  (∀ (s : State) (e : PortSample) (rest : List PortSample) (i : Instr),
    s.wasReset = true → s.inputs = e :: rest → e.rst = false → e.cmdValid = true → e.setupHold = true →
    decode e.cmdWord = .instr i →
    step s = exec i { s with inputs := rest }) ∧
  (∀ (s : State) (nbits w : Nat) (i : Instr), s.wasReset = true → decodeTableWord nbits w = some i →
    step (s.withFetchWord nbits w) = exec i s)

/-- 10_state.md R22: with nothing offered, no command is accepted and the registers do not change (that such a step is a
next state is the model's choice, log entry 3), once a reset has taken effect (70_reset_and_hazards.md R96). -/
def Obligations.NothingOfferedNothingChanges : Prop :=
  (∀ s : State, s.wasReset = true → s.inputs = [] → step s = .next s) ∧
  (∀ (s : State) (e : PortSample) (rest : List PortSample),
    s.wasReset = true → s.inputs = e :: rest → e.rst = false → e.cmdValid = false →
    step s = .next { s with inputs := rest })

/-- The engine never stalls, hangs or faults: a step gives a next state, but where the host offers a command with setup or
hold violated, for which the model has no move (42_host_procedures.md R76; log entry 4). -/
def Obligations.EngineNeverStalls : Prop :=
  ∀ s : State,
    let e := (nextSample s).1
    if e.rst = false ∧ e.cmdValid = true ∧ e.setupHold = false then step s = .refused .setupHoldViolated
    else ∃ t, step s = .next t ∧ t.inputs = s.inputs.tail

/-- 10_state.md R12: only INIT, FEED and reset write `crc`, with these values; `crc_out` shows it (both once a reset has
taken effect, 70_reset_and_hazards.md R96); and it is the CRC of the bytes fed since the last INIT or reset. -/
def Obligations.CrcWritersAndMeaning : Prop :=
  (∀ s t : State, s.wasReset = true → step s = .next t → t.crc ≠ s.crc →
    let e := (nextSample s).1
    (e.rst = true ∧ t.crc = 0xFFFF#16) ∨
    (e.rst = false ∧ e.cmdValid = true ∧ decode e.cmdWord = .instr .init ∧ t.crc = 0xFFFF#16) ∨
    (e.rst = false ∧ e.cmdValid = true ∧ ∃ b, decode e.cmdWord = .instr (.feed b) ∧ t.crc = crcStep s.crc b)) ∧
  (∀ s : State, s.wasReset = true → s.outputs.crcOut = s.crc) ∧
  (∀ (s : State) (before since : List Word), 0x1000#16 ∉ since →
    (s.applyWords (before ++ 0x1000#16 :: since)).crc = checksum (fedBytes since) ∧
    (s.resetRegs.applyWords since).crc = checksum (fedBytes since))

/-- 20_memory.md R34: NOP, INIT and, after the first, an illegal word are idempotent; FEED is not. -/
def Obligations.RepeatedCommands : Prop :=
  (∀ (s t : State), exec .nop s = .next t → exec .nop t = .next t) ∧
  (∀ (s t : State), exec .init s = .next t → exec .init t = .next t) ∧
  (∀ (w : Word) (s t : State), Safety.illegalWord w = true → acceptWord w s = .next t → acceptWord w t = .next t) ∧
  (∃ (b : Byte) (s t : State), exec (.feed b) s = .next t ∧ exec (.feed b) t ≠ .next t)

/-- The error record never changes what the commands do to `crc` (60_exceptions.md R79: later commands "execute normally
while `err` = 1"): two states after a reset that agree on `crc` and the port go on agreeing on them. -/
def Obligations.ErrorRecordDoesNotTouchCrc : Prop :=
  ∀ s s' t : State, s.wasReset = true → s'.wasReset = true → s'.crc = s.crc → s'.inputs = s.inputs → step s = .next t →
    ∃ t', step s' = .next t' ∧ t'.crc = t.crc ∧ t'.inputs = t.inputs

/-- 20_memory.md R37: a run takes the accepted words one after the other, each on the state its predecessor left, once
a reset has taken effect (70_reset_and_hazards.md R96). -/
def Obligations.RunTakesAcceptedWordsInOrder : Prop :=
  ∀ (es rest : List PortSample) (s : State),
    s.wasReset = true → s.inputs = es ++ rest → Safety.noReset es = true → Safety.timed es = true →
    runSteps es.length s = .next { s.applyWords (acceptedWords es) with inputs := rest }

/-! ## The exception (60_exceptions.md, 10_state.md) -/

/-- 60_exceptions.md R79: an accepted illegal word sets `err`, records itself if it is the first, and leaves `crc`; the
legal commands go on as if `err` were 0; and `cmd_ready` is 1 again `LAT_ILLEGAL` edges after acceptance. -/
def Obligations.IllegalCommandIsRecorded : Prop :=
  (∀ (s : State) (e : PortSample) (rest : List PortSample),
    s.wasReset = true → s.inputs = e :: rest → e.rst = false → e.cmdValid = true → e.setupHold = true →
    Safety.illegalWord e.cmdWord = true →
    step s = .next
      { s with err := true, errWord := if s.err then s.errWord else e.cmdWord, inputs := rest }) ∧
  (∀ (i : Instr) (s t : State) (v : Word), exec i s = .next t →
    exec i { s with err := true, errWord := v } = .next { t with err := true, errWord := v }) ∧
  (∀ (p : Config.Params) (c : Clocked) (w : Word) (rest : List PortSample),
    c.idle = true → Safety.illegalWord w = true →
    c.eng.inputs = commandSample w :: (List.replicate p.latIllegal idleSample ++ rest) →
    ∃ d, c.edges p (p.latIllegal + 1) = .next d ∧ d.cmdReady false = true ∧
      d.eng = { c.eng.raiseIllegal w with inputs := rest })

/-- 10_state.md R14: an illegal word sets `err`, only reset clears it, no legal command changes it, and the port shows
it (once a reset has taken effect, 70_reset_and_hazards.md R96; that a reset clears it holds before too). -/
def Obligations.ErrIsSticky : Prop :=
  (∀ s t : State, step s = .next t →
    let e := (nextSample s).1
    (e.rst = true → t.err = false) ∧
    (s.wasReset = true → e.rst = false → s.err = true → t.err = true) ∧
    (s.wasReset = true → e.rst = false → e.cmdValid = true → Safety.illegalWord e.cmdWord = true → t.err = true) ∧
    (s.wasReset = true → s.err = false → t.err = true →
      e.rst = false ∧ e.cmdValid = true ∧ Safety.illegalWord e.cmdWord = true)) ∧
  (∀ (i : Instr) (s : State), ∃ t, exec i s = .next t ∧ t.err = s.err) ∧
  (∀ s : State, s.wasReset = true → s.outputs.err = s.err)

/-- 10_state.md R15: `err_word` is the first illegal word accepted since reset, later ones leave it, only reset clears it,
and the port shows it (all once a reset has taken effect, 70_reset_and_hazards.md R96). The samples of a run may hold anything
but a reset. -/
def Obligations.ErrWordIsFirstIllegalWord : Prop :=
  (∀ s t : State, s.wasReset = true → step s = .next t → t.errWord ≠ s.errWord →
    let e := (nextSample s).1
    (e.rst = true ∧ t.errWord = 0x0000#16) ∨
    (e.rst = false ∧ e.cmdValid = true ∧ Safety.illegalWord e.cmdWord = true ∧ s.err = false ∧
      t.errWord = e.cmdWord)) ∧
  (∀ (es rest : List PortSample) (s t : State),
    s.wasReset = true → s.inputs = es ++ rest → Safety.noReset es = true → s.err = false → runSteps es.length s = .next t →
    t.err = (acceptedWords es).any Safety.illegalWord ∧
    t.errWord = ((acceptedWords es).find? Safety.illegalWord).getD s.errWord) ∧
  (∀ (es rest : List PortSample) (t : State), Safety.noReset es = true →
    runSteps es.length { State.reset with inputs := es ++ rest } = .next t →
    (t.errWord = 0x0000#16 ∧ t.err = false ↔ (acceptedWords es).all fun w => !Safety.illegalWord w)) ∧
  (∀ s : State, s.wasReset = true → s.outputs.errWord = s.errWord)

/-- 60_exceptions.md R84: once set, `err` and `err_word` stay through every run without a reset, an illegal word while
`err` = 1 changes nothing, and a reset clears both and loses the CRC of the message in progress. The run starts after a reset
(70_reset_and_hazards.md R96). -/
def Obligations.ErrorStaysUntilReset : Prop :=
  (∀ (es rest : List PortSample) (s t : State),
    s.wasReset = true → s.inputs = es ++ rest → Safety.noReset es = true → s.err = true →
    runSteps es.length s = .next t → t.err = true ∧ t.errWord = s.errWord) ∧
  (∀ (w : Word) (s : State), s.err = true → Safety.illegalWord w = true → acceptWord w s = .next s) ∧
  (∀ (s : State) (e : PortSample) (rest : List PortSample), s.inputs = e :: rest → e.rst = true →
    ∃ t, step s = .next t ∧ t.err = false ∧ t.errWord = 0x0000#16 ∧ t.crc = 0xFFFF#16)

/-- AN INVARIANT THAT EVERY STEP KEEPS: once a reset has taken effect (70_reset_and_hazards.md R96), which stays so, the error
record is consistent (10_state.md R14, R15): `err_word` is `0x0000` while `err` = 0 and an illegal word while `err` = 1. -/
def Obligations.ErrorRecordKeptByEveryStep : Prop :=
  ∀ s t : State, (s.wasReset = true → Safety.errorRecordOk s = true) → step s = .next t →
    (t.wasReset = true → Safety.errorRecordOk t = true) ∧ (s.wasReset = true → t.wasReset = true)

/-- Right after reset a reset has taken effect and the error record is consistent (10_state.md R24). -/
def Obligations.ErrorRecordHoldsAtReset : Prop :=
  State.reset.wasReset = true ∧ Safety.errorRecordOk State.reset = true

/-! ## Reset (70_reset_and_hazards.md) -/

/-- 70_reset_and_hazards.md R92 and R94: reset writes the three registers from every state, accepts no command offered at
the same edge, whatever is on the port, shows `cmd_ready` = 0, and discards the command in progress; a message may start
right after it without INIT. That the command in progress is gone after every edge with `rst` = 1, also before the minimum
hold, is the model's choice (log entry 8): R92 discards it when reset takes effect. -/
def Obligations.ResetDominates : Prop :=
  (∀ (s : State) (e : PortSample) (rest : List PortSample), s.inputs = e :: rest → e.rst = true →
    step s = .next
      { s with crc := 0xFFFF#16, err := false, errWord := 0x0000#16, wasReset := true, inputs := rest }) ∧
  (∀ c : Clocked, c.cmdReady true = false) ∧
  (∀ (p : Config.Params) (c : Clocked) (e : PortSample) (rest : List PortSample),
    c.eng.inputs = e :: rest → e.rst = true → ∃ d, c.edge p = .next d ∧ d.inFlight = none) ∧
  (∀ (s : State) (bs : List Byte), (s.resetRegs.applyWords (pseudoWords (.feeds bs))).crc = checksum bs)

/-- 10_state.md R24: the values after reset, with `crc_zero` = 0. That nothing is offered on the port then is the model's
choice (log entry 2) and not stated here. -/
def Obligations.ValuesAfterReset : Prop :=
  State.reset.crc = 0xFFFF#16 ∧ State.reset.err = false ∧ State.reset.errWord = 0x0000#16 ∧
  State.reset.outputs = { crcOut := 0xFFFF#16, crcZero := false, err := false, errWord := 0x0000#16 }

/-- 70_reset_and_hazards.md R96: from power-up, whose register values are free values (log entry 5), the first reset gives
the state of R92, and a message fed then, without INIT, gets its checksum. Before it the ports and `cmd_ready` are free values
that tell nothing of the registers, and on the clock level, whatever is offered before it, the first reset held for the minimum
(counted as log entry 8 says) leaves the engine ready in the state of R92 (log entry 20). That ports and `cmd_ready` are the
same for all registers at one draw counter is how the model draws them (log entry 21). -/
def Obligations.PowerUpThenReset : Prop :=
  (∀ (e : PortSample) (rest : List PortSample), e.rst = true →
    step (State.powerUp (e :: rest)) = .next { State.reset with inputs := rest }) ∧
  (∀ bs : List Byte,
    runSteps (bs.length + 1) (State.powerUp (resetSample :: commandSamples (pseudoWords (.feeds bs)))) =
      .next { State.reset with crc := checksum bs }) ∧
  (∀ (s : State) (crc : Word) (err : Bool) (errWord : Word) (c : Clocked), s.wasReset = false → c.eng = s →
    State.outputs { s with crc := crc, err := err, errWord := errWord } = s.outputs ∧
    (∀ rst, Clocked.cmdReady rst { c with eng := { s with crc := crc, err := err, errWord := errWord } } =
      c.cmdReady rst) ∧
    (∀ rst, (Clocked.sample rst { c with eng := { s with crc := crc, err := err, errWord := errWord } }).1 =
      (c.sample rst).1)) ∧
  (∀ (p : Config.Params) (es rest : List PortSample) (n : Nat),
    Safety.noReset es = true → Safety.timed es = true → 1 ≤ n → p.resetHold ≤ n →
    ∃ d draws,
      Clocked.edges p (es.length + (n + p.readyDelay))
        (Clocked.powerUp (es ++ (List.replicate n resetSample ++ (List.replicate p.readyDelay idleSample ++ rest)))) =
          .next d ∧
      d.cmdReady false = true ∧ d.eng = { State.reset with inputs := rest, draws := draws })

/-- 70_reset_and_hazards.md R93: when reset takes effect, the command in progress is aborted, none of its writes happen,
and the result is the same as if it had completed and then been overwritten. Reset takes effect when `rst` has been held
for the minimum, counted as log entry 8 says. -/
def Obligations.ResetAbortsInFlight : Prop :=
  ∀ (p : Config.Params) (c : Clocked) (e : PortSample) (rest : List PortSample) (q : InFlight),
    c.eng.inputs = e :: rest → e.rst = true → p.resetHold ≤ c.held + 1 → c.inFlight = some q →
    (∃ d, c.edge p = .next d ∧ d.inFlight = none ∧
      d.eng = { State.reset with inputs := rest, draws := c.eng.draws }) ∧
    c.edge p = Clocked.edge p { c with eng := c.eng.applyWord q.word, inFlight := none }

/-- 70_reset_and_hazards.md R95: whatever RESET_STYLE, the minimum pulse and the ready delay are, and from every state of the
clock level, once `rst` has been held for the minimum and the ready delay has passed, the engine is ready in the state of
R92, also where `rst` rose before the first of those edges. With a minimum of at most one edge, an edge taken after `rst` has
risen early leaves the same registers, command in progress, ready delay and hold count as the edge alone. How the minimum and
the delay are counted is the model's choice (log entry 8), and so is the draw counter (log entry 9). -/
def Obligations.ResetStyleIsNotObservable : Prop :=
  (∀ (p : Config.Params) (c : Clocked) (n : Nat) (rest : List PortSample),
    1 ≤ n → p.resetHold ≤ n →
    c.eng.inputs = List.replicate n resetSample ++ (List.replicate p.readyDelay idleSample ++ rest) →
    (∃ d draws, c.edges p (n + p.readyDelay) = .next d ∧ d.cmdReady false = true ∧
      d.eng = { State.reset with inputs := rest, draws := draws }) ∧
    (∃ d draws, (c.rstRises p).edges p (n + p.readyDelay) = .next d ∧ d.cmdReady false = true ∧
      d.eng = { State.reset with inputs := rest, draws := draws })) ∧
  (∀ (p : Config.Params) (c : Clocked) (e : PortSample) (rest : List PortSample),
    c.eng.inputs = e :: rest → e.rst = true → c.held = 0 → p.resetHold ≤ 1 →
    ∃ d draws, c.edge p = .next d ∧
      (c.rstRises p).edge p = .next { d with eng := { d.eng with draws := draws } })

/-! ## CRC arithmetic (40_crc_arithmetic.md) -/

/-- 40_crc_arithmetic.md R51, a form the spec supplies from general knowledge: the bit step, its corner cases, bit 15 of the
result, the inverse the rule gives, and the trace of its example. -/
def Obligations.BitStepIsABijection : Prop :=
  (∀ c : Word, bitstep c = if c.getLsbD 0 then (c >>> 1) ^^^ 0xA001#16 else c >>> 1) ∧
  (∀ c : Word, (bitstep c).getLsbD 15 = c.getLsbD 0) ∧
  (∀ c r : Word, bitstep c = r →
    c = ((r ^^^ (if r.getLsbD 15 then 0xA001#16 else 0x0000#16)) <<< 1 ||| (if r.getLsbD 15 then 1#16 else 0#16))) ∧
  Function.Bijective bitstep ∧
  (bitstep 0x0000#16 = 0x0000#16 ∧ bitstep 0x0001#16 = 0xA001#16 ∧ bitstep 0xFFFF#16 = 0xDFFE#16) ∧
  ((List.range 8).map fun k => bitsteps (k + 1) 0xFFFE#16) =
    [0x7FFF#16, 0x9FFE#16, 0x4FFF#16, 0x87FE#16, 0x43FF#16, 0x81FE#16, 0x40FF#16, 0x807E#16]

/-- 40_crc_arithmetic.md R53, which the spec derives: the nibble table is four bit steps of its index, and its values are
those of 10_state.md R16. -/
def Obligations.NibbleTableIsFourBitSteps : Prop :=
  (∀ n : Nibble, t16 n = bitsteps 4 (n.setWidth 16)) ∧
  (List.range 16).map (fun k => t16 (BitVec.ofNat 4 k)) =
    [0x0000#16, 0xCC01#16, 0xD801#16, 0x1400#16, 0xF001#16, 0x3C00#16, 0x2800#16, 0xE401#16,
      0xA001#16, 0x6C00#16, 0x7800#16, 0xB401#16, 0x5000#16, 0x9C01#16, 0x8801#16, 0x4400#16]

/-- 40_crc_arithmetic.md R54: the recurrence, its equality with four bit steps (which the spec derives), and the corner
cases. -/
def Obligations.NibbleStepIsFourBitSteps : Prop :=
  (∀ (c : Word) (n : Nibble),
    nibstep c n = (c >>> 4) ^^^ t16 (((c ^^^ n.setWidth 16) &&& 0xF#16).setWidth 4) ∧
    nibstep c n = bitsteps 4 (c ^^^ n.setWidth 16)) ∧
  (nibstep 0x0000#16 0x0#4 = 0x0000#16 ∧ nibstep 0x000F#16 0xF#4 = 0x0000#16 ∧ nibstep 0xFFFF#16 0x1#4 = 0x87FE#16)

/-- 40_crc_arithmetic.md R55: the byte step is the low nibble, then the high nibble; every pair is legal; the corner cases
and the example. -/
def Obligations.ByteStepIsLowThenHighNibble : Prop :=
  (∀ (c : Word) (b : Byte), crcStep c b = nibstep (nibstep c (b.extractLsb' 0 4)) (b.extractLsb' 4 4)) ∧
  (∀ (s : State) (b : Byte), exec (.feed b) s = .next { s with crc := crcStep s.crc b }) ∧
  (crcStep 0x0000#16 0x00#8 = 0x0000#16 ∧ crcStep 0x0001#16 0x01#8 = 0x0000#16 ∧
    crcStep 0xFFFF#16 0xFF#8 = 0x00FF#16 ∧ crcStep 0x0000#16 0xFF#8 = 0x4040#16 ∧
    crcStep 0x8000#16 0x00#8 = 0x0080#16 ∧ nibstep 0xFFFF#16 0x1#4 = 0x87FE#16 ∧
    nibstep 0x87FE#16 0x0#4 = 0x807E#16 ∧ crcStep 0xFFFF#16 0x01#8 = 0x807E#16)

/-- 20_memory.md R28: within one FEED the low nibble is consumed first, and the other order gives another result. -/
def Obligations.LowNibbleIsConsumedFirst : Prop :=
  (∀ (s : State) (b : Byte), exec (.feed b) s =
    .next { s with crc := nibstep (nibstep s.crc (b.extractLsb' 0 4)) (b.extractLsb' 4 4) }) ∧
  nibstep (nibstep 0xFFFF#16 0x1#4) 0x0#4 = 0x807E#16 ∧ nibstep (nibstep 0xFFFF#16 0x0#4) 0x1#4 = 0x8CBE#16

/-- 20_memory.md R29, which the spec derives: the bits of a byte are consumed least significant first, each XORed into bit 0
before one bit step. -/
def Obligations.BitsAreConsumedLeastSignificantFirst : Prop :=
  ∀ (c : Word) (b : Byte),
    crcStep c b =
      (List.range 8).foldl (fun r i => bitstep (r ^^^ (if b.getLsbD i then 1#16 else 0#16))) c

/-- 40_crc_arithmetic.md R56: the nibble-table, bit-serial and byte-table steps are equal on every input, so IMPL is not
observable. -/
def Obligations.ThreeByteStepsAgree : Prop :=
  (∀ (c : Word) (b : Byte), crcStep c b = stepBits c b ∧ crcStep c b = stepTab c b) ∧
  (∀ (impl : Config.Impl) (w : Word) (s : State), acceptWordAs impl w s = acceptWord w s)

/-- 40_crc_arithmetic.md R57, which the spec derives: the byte table is eight bit steps of its index, and holds the nibble
table at the multiples of 16. -/
def Obligations.ByteTableIsEightBitSteps : Prop :=
  (∀ i : Byte, t256 i = bitsteps 8 (i.setWidth 16)) ∧
  (∀ n : Nibble, t256 (n.setWidth 8 <<< 4) = t16 n) ∧ t256 0x01#8 = 0xC0C1#16 ∧
  (∀ (c : Word) (b : Byte), stepTab c b = (c >>> 8) ^^^ t256 (((c ^^^ b.setWidth 16) &&& 0xFF#16).setWidth 8))

/-- 40_crc_arithmetic.md R59, which the spec derives: the step is linear, a bijection of the register for each byte, and
injective in the byte for each register. -/
def Obligations.StepIsLinear : Prop :=
  (∀ (c₁ c₂ : Word) (b₁ b₂ : Byte), crcStep (c₁ ^^^ c₂) (b₁ ^^^ b₂) = crcStep c₁ b₁ ^^^ crcStep c₂ b₂) ∧
  (∀ (c : Word) (b : Byte), crcStep c b = crcStep c 0 ^^^ t256 b) ∧
  (∀ b : Byte, Function.Bijective fun c => crcStep c b) ∧
  (∀ c : Word, Function.Injective (crcStep c))

/-- 40_crc_arithmetic.md R58: checksum and validate are the left fold of the step, a message may be fed in pieces, and the
corner cases, `FF FF` being the only two bytes that validate. -/
def Obligations.ChecksumIsAFold : Prop :=
  (∀ (c : Word) (b : Byte) (bs : List Byte), crcFrom c [] = c ∧ crcFrom c (b :: bs) = crcFrom (crcStep c b) bs) ∧
  (∀ bs : List Byte, checksum bs = crcFrom 0xFFFF#16 bs ∧ (validate bs = true ↔ checksum bs = 0x0000#16)) ∧
  (∀ (c : Word) (bs cs : List Byte), crcFrom c (bs ++ cs) = crcFrom (crcFrom c bs) cs) ∧
  (checksum [] = 0xFFFF#16 ∧ validate [] = false ∧ checksum [0xFF#8, 0xFF#8] = 0x0000#16) ∧
  (∀ x y : Byte, validate [x, y] = true ↔ x = 0xFF#8 ∧ y = 0xFF#8) ∧
  checksum [0x31#8, 0x32#8, 0x33#8, 0x34#8, 0x35#8, 0x36#8, 0x37#8, 0x38#8, 0x39#8] = 0x4B37#16

/-- 40_crc_arithmetic.md R60: a message with its checksum appended, low byte first, validates; high byte first it need
not. -/
def Obligations.AppendedChecksumValidates : Prop :=
  (∀ bs : List Byte, validate (bs ++ [(checksum bs).extractLsb' 0 8, (checksum bs).extractLsb' 8 8]) = true) ∧
  crcFrom 0x1EC0#16 [0x1E#8, 0xC0#8] = 0xF8D9#16

/-- 40_crc_arithmetic.md R61, which the spec derives: the engine presents the register itself, and with any nonzero final
XOR a correct frame would not leave `0x0000`. -/
def Obligations.NoFinalXor : Prop :=
  (∀ s : State, s.wasReset = true → s.outputs.crcOut = s.crc) ∧
  (∀ (bs : List Byte) (x : Word), x ≠ 0x0000#16 →
    crcFrom 0xFFFF#16 (bs ++ [(checksum bs ^^^ x).extractLsb' 0 8, (checksum bs ^^^ x).extractLsb' 8 8]) ≠ 0x0000#16)

/-- 40_crc_arithmetic.md R62: with any one bit of a message and its appended checksum flipped, the frame does not
validate. -/
def Obligations.SingleBitErrorsAreDetected : Prop :=
  ∀ (bs : List Byte) (k j : Nat), k < (appendCrc bs).length → j < 8 → validate (flipBit (appendCrc bs) k j) = false

/-! ## Messages and the host (30_encoding.md R48, R49; 42_host_procedures.md) -/

/-- 30_encoding.md R49: the words each pseudo-instruction expands to, and what the engine holds after them: CHECKSUM the
checksum, VALIDATE the verdict in `crc_zero`, FEEDS the continued message; CHECKSUM of nothing is INIT alone. The engine
holds it, and the ports show it, once a reset has taken effect (70_reset_and_hazards.md R96). -/
def Obligations.PseudoInstructionsCompute : Prop :=
  (∀ bs : List Byte,
    pseudoWords (.checksum bs) = 0x1000#16 :: bs.map (fun b => 0x2000#16 ||| b.setWidth 16) ∧
    pseudoWords (.validate bs) = 0x1000#16 :: bs.map (fun b => 0x2000#16 ||| b.setWidth 16) ∧
    pseudoWords (.feeds bs) = bs.map (fun b => 0x2000#16 ||| b.setWidth 16)) ∧
  (∀ (s : State) (bs : List Byte) (rest : List PortSample),
    s.wasReset = true → s.inputs = commandSamples (pseudoWords (.checksum bs)) ++ rest →
    ∃ t, runSteps (bs.length + 1) s = .next t ∧ t = { s with crc := checksum bs, inputs := rest } ∧
      t.outputs.crcOut = checksum bs) ∧
  (∀ (s : State) (f : List Byte) (rest : List PortSample),
    s.wasReset = true → s.inputs = commandSamples (pseudoWords (.validate f)) ++ rest →
    ∃ t, runSteps (f.length + 1) s = .next t ∧ t.crcZero = validate f ∧ t.outputs.crcZero = validate f) ∧
  (∀ (s : State) (bs : List Byte) (rest : List PortSample),
    s.wasReset = true → s.inputs = commandSamples (pseudoWords (.feeds bs)) ++ rest →
    runSteps bs.length s = .next { s with crc := crcFrom s.crc bs, inputs := rest }) ∧
  (pseudoWords (.checksum []) = [0x1000#16] ∧ checksum [] = 0xFFFF#16)

/-- 10_state.md R13: `crc_zero` is `crc == 0x0000` and nothing else, and after INIT and a whole frame it is the verdict
`validate(frame)`, whatever state the message found. The port shows it once a reset has taken effect (70_reset_and_hazards.md R96). -/
def Obligations.CrcZeroIsTheVerdict : Prop :=
  (∀ s : State, (s.wasReset = true → s.outputs.crcZero = s.crcZero) ∧ (s.crcZero = true ↔ s.crc = 0x0000#16)) ∧
  (∀ (s : State) (f : List Byte),
    (s.applyWords (encode .init :: f.map fun b => encode (.feed b))).crcZero = validate f)

/-- 42_host_procedures.md R71, the second way to a verdict, which the spec derives: for two bytes or more, comparing the
checksum of all but the last two with those two read little-endian gives the same verdict. -/
def Obligations.TwoVerdictsAgree : Prop :=
  ∀ (bs : List Byte) (lo hi : Byte), validate (bs ++ [lo, hi]) = (checksum bs == ofWireBytes lo hi)

/-- 42_host_procedures.md R72 and R75: a frame is address, function code, data and the checksum, low byte first; it
validates and, parsed with validation on, gives its address and its function code and data; the source's example frame.
-/
def Obligations.BuiltFrameParses : Prop :=
  (∀ (a f : Byte) (d : List Byte),
    buildFrame a f d = a :: f :: d ++
      [(checksum (a :: f :: d)).extractLsb' 0 8, (checksum (a :: f :: d)).extractLsb' 8 8] ∧
    validate (buildFrame a f d) = true ∧
    hostParse true (buildFrame a f d) = .frame a (f :: d)) ∧
  (buildFrame 0x01#8 0x04#8 [0x00#8, 0x0A#8] = [0x01#8, 0x04#8, 0x00#8, 0x0A#8, 0xC0#8, 0x1E#8] ∧
    hostParse true [0x01#8, 0x04#8, 0x00#8, 0x0A#8, 0xC0#8, 0x1E#8] = .frame 0x01#8 [0x04#8, 0x00#8, 0x0A#8])

/-- With validation off (42_host_procedures.md R74 leaves that to the host) the parse takes the address and the payload out
of every frame of four bytes or more by R75's formula, of a built frame also, and answers as with validation on wherever the
frame validates. R75 gives the extraction only after a frame validates: that a frame not validated is taken apart too is the
model's choice, log entry 19. -/
def Obligations.ParseWithoutValidation : Prop :=
  (∀ (a x y : Byte) (payload : List Byte), payload ≠ [] → hostParse false (a :: payload ++ [x, y]) = .frame a payload) ∧
  (∀ (a f : Byte) (d : List Byte), hostParse false (buildFrame a f d) = .frame a (f :: d)) ∧
  (∀ frame : List Byte, validate frame = true → hostParse false frame = hostParse true frame)

/-- 42_host_procedures.md R73 and R74: the length and the mismatch are the host's verdicts (that it checks the length first
is the model's choice, log entry 14); the engine takes every byte of such a frame without recording an error. -/
def Obligations.HostVerdicts : Prop :=
  (∀ (v : Bool) (f : List Byte), f.length < 4 → hostParse v f = .shortFrame) ∧
  (∀ f : List Byte, 4 ≤ f.length → (hostParse true f = .crcMismatch ↔ validate f = false)) ∧
  (∀ f : List Byte, hostParse false f ≠ .crcMismatch) ∧
  (∀ (s : State) (f : List Byte),
    (s.applyWords (pseudoWords (.validate f))).err = s.err ∧
    (s.applyWords (pseudoWords (.validate f))).errWord = s.errWord)

/-- 70_reset_and_hazards.md R99, which the spec derives: without INIT between them two messages give the CRC of their
concatenation; after a valid frame the next one starts at `0x0000`; the rule's example. -/
def Obligations.MessagesChainWithoutInit : Prop :=
  (∀ (s : State) (xs ys : List Byte),
    (s.applyWords (pseudoWords (.checksum xs) ++ pseudoWords (.feeds ys))).crc = checksum (xs ++ ys)) ∧
  (∀ (s : State) (f ys : List Byte), validate f = true →
    (s.applyWords (pseudoWords (.checksum f) ++ pseudoWords (.feeds ys))).crc = crcFrom 0x0000#16 ys) ∧
  checksum [0x01#8, 0x04#8, 0x00#8, 0x0A#8] = 0x1EC0#16 ∧
  checksum [0x01#8, 0x04#8, 0x00#8, 0x0A#8, 0x01#8, 0x04#8, 0x00#8, 0x0A#8] = 0x3C9C#16

/-- 30_encoding.md R48 over the model's reading of white space and numbers (log entry 13): what the disassembler prints
assembles to the same word, for all words; mnemonics are case-insensitive; operands over 255 and missing ones are
refused. -/
def Obligations.AssemblerRoundTrip : Prop :=
  (∀ w : Word, assembleLine (disassemble w) = some w) ∧
  assembleLine ['n', 'O', 'p'] = some 0x0000#16 ∧ assembleLine ['I', 'n', 'i', 't'] = some 0x1000#16 ∧
  assembleLine ['f', 'e', 'e', 'd', ' ', '2', '5', '5'] = some 0x20FF#16 ∧
  assembleLine ['F', 'E', 'E', 'D', ' ', '2', '5', '6'] = none ∧ assembleLine ['F', 'E', 'E', 'D'] = none ∧
  assembleLine ['.', 'w', 'o', 'r', 'd', ' ', '0', 'x', 'F', 'F', 'F', 'F'] = some 0xFFFF#16

/-- 10_state.md R25: a step of one instance leaves every other instance as it was, and is a step of that one alone. -/
def Obligations.InstancesShareNoState : Prop :=
  ∀ (k : Nat) (engines engines' : List State), stepInstance k engines = .next engines' →
    engines'.length = engines.length ∧
    (∀ j, j ≠ k → engines'[j]? = engines[j]?) ∧
    (∀ s, engines[k]? = some s → ∃ t, step s = .next t ∧ engines'[k]? = some t)

/-! ## The clock level (10_state.md R20 to R23, 70_reset_and_hazards.md) -/

/-- The clock level refines the command level, for every value of the parameters (10_state.md R22; 20_memory.md R33, R37): an
edge with `rst` = 0 at which the engine is ready is one command-level step of the settled state; one at which it is not ready
leaves the settled state; a reset that has been held long enough (counted as log entry 8 says) resets it. Two edges leave an
unspecified engine, of whose registers nothing is claimed: one with `rst` = 0 before the first reset, which is one
command-level step too (70_reset_and_hazards.md R96; log entry 20), and one with `rst` = 1 held for less than the minimum,
which is no step (log entry 8). -/
def Obligations.ClockEdgeRefinesStep : Prop :=
  ∀ (p : Config.Params) (c d : Clocked), c.edge p = .next d →
    let e := (nextSample c.eng).1
    let base : State := { c.settled with inputs := c.eng.inputs.tail }
    (e.rst = true → p.resetHold ≤ c.held + 1 → d.settled = base.resetRegs) ∧
    (e.rst = false → c.idle = true → takeSample e base = .next d.settled) ∧
    (e.rst = false → c.eng.wasReset = true → c.idle = false → d.settled = base) ∧
    (e.rst = true → c.held + 1 < p.resetHold →
      d.eng.wasReset = false ∧ d.inFlight = none ∧ d.eng.inputs = base.inputs) ∧
    (e.rst = false → c.eng.wasReset = false → takeSample e base = .next d.settled ∧
      d.eng.wasReset = false ∧ d.inFlight = none ∧ d.eng.inputs = base.inputs)

/-- With every latency 0, no ready delay and a minimum `rst` pulse of at most one edge, an edge of `clk` at an idle engine is a
step of the command level and leaves the engine idle (10_state.md R22: "If `LAT_op` is 0, the effect is in the state immediately
after the accepting edge"; for the edge with `rst` = 1, 70_reset_and_hazards.md R92 and R95). That reset takes effect and the
engine is idle right after such an edge is the counting of log entry 8. -/
def Obligations.ZeroLatencyEdgeIsStep : Prop :=
  ∀ (p : Config.Params) (c : Clocked) (t : State),
    p.latNop = 0 → p.latInit = 0 → p.latFeed = 0 → p.latIllegal = 0 → p.readyDelay = 0 → p.resetHold ≤ 1 →
    c.idle = true → step c.eng = .next t →
    ∃ d, c.edge p = .next d ∧ d.eng = t ∧ d.idle = true

/-- 70_reset_and_hazards.md R98, for an engine that has been reset (before that `cmd_ready` is unspecified, R96): while the
engine is not ready, or `cmd_valid` = 0, what is on the port has no effect; a word offered without waiting, and kept until
acceptance, is neither lost nor duplicated (at which edge the engine is ready again is the model's reading, log entries 7
and 8). -/
def Obligations.CommandsOnlyThroughHandshake : Prop :=
  (∀ (p : Config.Params) (c : Clocked) (e e' : PortSample) (rest : List PortSample),
    c.eng.wasReset = true → c.idle = false → e.rst = false → e'.rst = false →
    Clocked.edge p { c with eng := { c.eng with inputs := e :: rest } } =
      Clocked.edge p { c with eng := { c.eng with inputs := e' :: rest } }) ∧
  (∀ (p : Config.Params) (c : Clocked) (e : PortSample) (rest : List PortSample),
    c.idle = true → e.rst = false → e.cmdValid = false → c.eng.inputs = e :: rest →
    c.edge p = .next { c with eng := { c.eng with inputs := rest }, held := 0 }) ∧
  (∀ (p : Config.Params) (c : Clocked) (w : Word) (rest : List PortSample),
    c.eng.wasReset = true →
    c.eng.inputs = List.replicate (c.edgesToReady + 1) (commandSample w) ++ rest →
    ∃ d, c.edges p (c.edgesToReady + 1) = .next d ∧ d.settled = { c.settled.applyWord w with inputs := rest })

/-- 70_reset_and_hazards.md R103: from every state of the clock level after a reset (before it `cmd_ready` is unspecified, R96)
there is a number of edges after which, whatever is on the port but reset, `cmd_ready` is 1 again and the command in progress
has completed. -/
def Obligations.EngineBecomesReady : Prop :=
  ∀ (p : Config.Params) (c : Clocked), c.eng.wasReset = true → ∃ n : Nat, ∀ es rest : List PortSample,
    es.length = n → Safety.noReset es = true →
    ∃ d, Clocked.edges p n { c with eng := { c.eng with inputs := es ++ rest } } = .next d ∧
      d.cmdReady false = true ∧ d.eng = { c.settled with inputs := rest }

/-- 70_reset_and_hazards.md R102, with "`cmd_ready` is 1 again at edge t + `LAT_op`" read as the value right after that edge
(log entry 7): the engine is ready `LAT_op` edges after acceptance and not before, and no register changes before. -/
def Obligations.LatencyIsExact : Prop :=
  ∀ (p : Config.Params) (c : Clocked) (w : Word) (rest : List PortSample) (j : Nat),
    c.idle = true → j ≤ latencyOf p w →
    c.eng.inputs = commandSample w :: (List.replicate (latencyOf p w) idleSample ++ rest) →
    ∃ d, c.edges p (j + 1) = .next d ∧
      (d.cmdReady false = true ↔ j = latencyOf p w) ∧
      (j < latencyOf p w → d.eng.observe = c.eng.observe) ∧
      (j = latencyOf p w → d.eng = { c.eng.applyWord w with inputs := rest })

/-- 42_host_procedures.md R77: "A claim about a command sequence holds for every `IMPL` and every latency": a host that
waits for `cmd_ready` gets, from every sequence of words, the state the command level gives, and the engine is ready again
(70_reset_and_hazards.md R103). How many edges the host waits follows log entry 7. -/
def Obligations.EveryLatencyGivesTheSameRun : Prop :=
  ∀ (p : Config.Params) (c : Clocked) (ws : List Word) (rest : List PortSample),
    c.idle = true → c.eng.inputs = pacedSamples p ws ++ rest →
    ∃ d, c.edges p (pacedSamples p ws).length = .next d ∧ d.cmdReady false = true ∧
      d.eng = { c.eng.applyWords ws with inputs := rest }

/-- 10_state.md R23: while `cmd_ready` = 1 and `rst` = 0 the ports carry the registers, once a reset has taken effect
(70_reset_and_hazards.md R96); outside that window nothing is claimed of what they carry; reading them, or `cmd_ready`, never
changes the engine. -/
def Obligations.OutputsInTheValidWindow : Prop :=
  (∀ (rst : Bool) (c : Clocked), c.eng.wasReset = true → c.cmdReady rst = true →
    (c.sample rst).1 =
      { crcOut := c.eng.crc, crcZero := c.eng.crc == 0x0000#16, err := c.eng.err, errWord := c.eng.errWord }) ∧
  (∀ (rst : Bool) (c d : Clocked), d = (c.sample rst).2 ∨ d = (c.sampleReady rst).2 →
    d.eng.observe = c.eng.observe ∧ d.eng.wasReset = c.eng.wasReset ∧ d.eng.inputs = c.eng.inputs ∧
      d.inFlight = c.inFlight ∧ d.settle = c.settle ∧ d.held = c.held) ∧
  (∀ s : State, s.sample.2.observe = s.observe ∧ s.sample.2.wasReset = s.wasReset ∧ s.sample.2.inputs = s.inputs)

/-! ## Added after review -/

/-- 70_reset_and_hazards.md R94: at an edge with `rst` = 1 nothing that is offered has an effect, whatever `cmd_ready` would
have been: the result is that of `rst` = 1 with nothing offered, on the command level and, from every state, on the clock
level. That the two agree in the unspecified registers too, which an edge short of the minimum hold leaves, is how the model
draws free values (log entries 8 and 21). -/
def Obligations.ResetAcceptsNoCommand : Prop :=
  (∀ (s : State) (e : PortSample) (rest : List PortSample), s.inputs = e :: rest → e.rst = true →
    step s = step { s with inputs := resetSample :: rest }) ∧
  (∀ (p : Config.Params) (c : Clocked) (e : PortSample) (rest : List PortSample),
    c.eng.inputs = e :: rest → e.rst = true →
    c.edge p = Clocked.edge p { c with eng := { c.eng with inputs := resetSample :: rest } })

/-- 70_reset_and_hazards.md R96: until a reset has taken effect the registers and all outputs are unspecified after every
step, whatever is offered (log entry 20): each step with `rst` = 0 draws the registers anew, so that neither a command nor an
illegal word fixes a value, and the ports carry free values. Only a reset ends this, for good, and leaves the state of R92
whatever came before. No clause tells a free value; the draw counter is the model's (log entry 9). -/
def Obligations.UnspecifiedUntilReset : Prop :=
  (∀ s : State, s.wasReset = false →
    let e := (nextSample s).1
    e.rst = false → (e.cmdValid = true → e.setupHold = true) →
    step s = .next { s.unspecified with inputs := s.inputs.tail }) ∧
  (∀ s t : State, step s = .next t → (t.wasReset = true ↔ s.wasReset = true ∨ (nextSample s).1.rst = true)) ∧
  (∀ (es rest : List PortSample) (s : State),
    s.wasReset = false → s.inputs = es ++ rest → Safety.noReset es = true → Safety.timed es = true →
    ∃ t, runSteps es.length s = .next t ∧ t.wasReset = false ∧ t.outputs = t.freeOutputs ∧
      t.inputs = rest ∧ t.draws = s.draws + es.length) ∧
  (∀ (es rest : List PortSample), Safety.noReset es = true → Safety.timed es = true →
    runSteps (es.length + 1) (State.powerUp (es ++ resetSample :: rest)) =
      .next { State.reset with inputs := rest, draws := es.length })
end

