-- ==== Sys2Proof/Laws/Decode.lean ====
section
/-! SUPPORT. What the decoder can answer, said once (30_encoding.md R45). -/

namespace Sys2Proof

/-- Inversion of the decoder: a word is NOP, INIT, a FEED of its low byte, or illegal and named as itself. -/
theorem decode_cases (w : Word) :
    (w = 0x0000#16 ∧ decode w = .instr .nop) ∨ (w = 0x1000#16 ∧ decode w = .instr .init) ∨
      (fieldOp w = 2 ∧ fieldRsv w = 0 ∧ decode w = .instr (.feed (fieldImm8 w))) ∨
      decode w = .illegal (illegalKind w) w := by
  by_cases h0 : w = 0x0000#16
  · exact .inl ⟨h0, by simp [decode, h0]⟩
  by_cases h1 : w = 0x1000#16
  · exact .inr (.inl ⟨h1, by simp [decode, h1]⟩)
  by_cases h2 : fieldOp w = 2 ∧ fieldRsv w = 0
  · exact .inr (.inr (.inl ⟨h2.1, h2.2, by simp [decode, h0, h1, h2]⟩))
  · exact .inr (.inr (.inr (by rw [decode, if_neg h0, if_neg h1, if_neg h2])))

/-- An illegal word is recorded as it was presented. -/
theorem decode_illegal_word {w v : Word} {kind : IllegalKind} (h : decode w = .illegal kind v) : v = w := by
  rcases decode_cases w with ⟨-, e⟩ | ⟨-, e⟩ | ⟨-, -, e⟩ | e <;> rw [e] at h <;> cases h
  rfl

end Sys2Proof
end

