-- ==== Sys2Proof/Laws/State.lean ====
section
/-! SUPPORT. One lemma per field per named update of the state, and what each derived output reads. -/

namespace Sys2Proof.Machine

@[simp] theorem State.setCrc_crc (s : State) (v : Word) : (s.setCrc v).crc = v := rfl
@[simp] theorem State.setCrc_err (s : State) (v : Word) : (s.setCrc v).err = s.err := rfl
@[simp] theorem State.setCrc_errWord (s : State) (v : Word) : (s.setCrc v).errWord = s.errWord := rfl
@[simp] theorem State.setCrc_wasReset (s : State) (v : Word) : (s.setCrc v).wasReset = s.wasReset := rfl
@[simp] theorem State.setCrc_inputs (s : State) (v : Word) : (s.setCrc v).inputs = s.inputs := rfl
@[simp] theorem State.setCrc_draws (s : State) (v : Word) : (s.setCrc v).draws = s.draws := rfl

@[simp] theorem State.loadPreset_crc (s : State) : (s.loadPreset).crc = 0xFFFF#16 := rfl
@[simp] theorem State.loadPreset_err (s : State) : (s.loadPreset).err = s.err := rfl
@[simp] theorem State.loadPreset_errWord (s : State) : (s.loadPreset).errWord = s.errWord := rfl
@[simp] theorem State.loadPreset_wasReset (s : State) : (s.loadPreset).wasReset = s.wasReset := rfl
@[simp] theorem State.loadPreset_inputs (s : State) : (s.loadPreset).inputs = s.inputs := rfl
@[simp] theorem State.loadPreset_draws (s : State) : (s.loadPreset).draws = s.draws := rfl

@[simp] theorem State.foldByte_crc (s : State) (b : Byte) : (s.foldByte b).crc = crcStep s.crc b := rfl
@[simp] theorem State.foldByte_err (s : State) (b : Byte) : (s.foldByte b).err = s.err := rfl
@[simp] theorem State.foldByte_errWord (s : State) (b : Byte) : (s.foldByte b).errWord = s.errWord := rfl
@[simp] theorem State.foldByte_wasReset (s : State) (b : Byte) : (s.foldByte b).wasReset = s.wasReset := rfl
@[simp] theorem State.foldByte_inputs (s : State) (b : Byte) : (s.foldByte b).inputs = s.inputs := rfl
@[simp] theorem State.foldByte_draws (s : State) (b : Byte) : (s.foldByte b).draws = s.draws := rfl

@[simp] theorem State.raiseIllegal_crc (s : State) (w : Word) : (s.raiseIllegal w).crc = s.crc := rfl
@[simp] theorem State.raiseIllegal_err (s : State) (w : Word) : (s.raiseIllegal w).err = true := rfl
@[simp] theorem State.raiseIllegal_errWord (s : State) (w : Word) : (s.raiseIllegal w).errWord = if s.err then s.errWord else w := rfl
@[simp] theorem State.raiseIllegal_wasReset (s : State) (w : Word) : (s.raiseIllegal w).wasReset = s.wasReset := rfl
@[simp] theorem State.raiseIllegal_inputs (s : State) (w : Word) : (s.raiseIllegal w).inputs = s.inputs := rfl
@[simp] theorem State.raiseIllegal_draws (s : State) (w : Word) : (s.raiseIllegal w).draws = s.draws := rfl

@[simp] theorem State.resetRegs_crc (s : State) : (s.resetRegs).crc = 0xFFFF#16 := rfl
@[simp] theorem State.resetRegs_err (s : State) : (s.resetRegs).err = false := rfl
@[simp] theorem State.resetRegs_errWord (s : State) : (s.resetRegs).errWord = 0x0000#16 := rfl
@[simp] theorem State.resetRegs_wasReset (s : State) : (s.resetRegs).wasReset = true := rfl
@[simp] theorem State.resetRegs_inputs (s : State) : (s.resetRegs).inputs = s.inputs := rfl
@[simp] theorem State.resetRegs_draws (s : State) : (s.resetRegs).draws = s.draws := rfl

@[simp] theorem State.offer_crc (s : State) (w : Word) : (s.offer w).crc = s.crc := rfl
@[simp] theorem State.offer_err (s : State) (w : Word) : (s.offer w).err = s.err := rfl
@[simp] theorem State.offer_errWord (s : State) (w : Word) : (s.offer w).errWord = s.errWord := rfl
@[simp] theorem State.offer_wasReset (s : State) (w : Word) : (s.offer w).wasReset = s.wasReset := rfl
@[simp] theorem State.offer_inputs (s : State) (w : Word) : (s.offer w).inputs = commandSample w :: s.inputs := rfl
@[simp] theorem State.offer_draws (s : State) (w : Word) : (s.offer w).draws = s.draws := rfl

@[simp] theorem State.drawn_crc (s : State) : (s.drawn).crc = s.crc := rfl
@[simp] theorem State.drawn_err (s : State) : (s.drawn).err = s.err := rfl
@[simp] theorem State.drawn_errWord (s : State) : (s.drawn).errWord = s.errWord := rfl
@[simp] theorem State.drawn_wasReset (s : State) : (s.drawn).wasReset = s.wasReset := rfl
@[simp] theorem State.drawn_inputs (s : State) : (s.drawn).inputs = s.inputs := rfl
@[simp] theorem State.drawn_draws (s : State) : (s.drawn).draws = s.draws + 1 := rfl

@[simp] theorem State.unspecified_crc (s : State) : (s.unspecified).crc = Config.unspecCrc s.draws := rfl
@[simp] theorem State.unspecified_err (s : State) : (s.unspecified).err = Config.unspecErr s.draws := rfl
@[simp] theorem State.unspecified_errWord (s : State) : (s.unspecified).errWord = Config.unspecErrWord s.draws := rfl
@[simp] theorem State.unspecified_wasReset (s : State) : (s.unspecified).wasReset = false := rfl
@[simp] theorem State.unspecified_inputs (s : State) : (s.unspecified).inputs = s.inputs := rfl
@[simp] theorem State.unspecified_draws (s : State) : (s.unspecified).draws = s.draws + 1 := rfl

@[simp] theorem State.foldByteAs_crc (impl : Config.Impl) (s : State) (b : Byte) :
    (s.foldByteAs impl b).crc = crcStepAs impl s.crc b := rfl
@[simp] theorem State.foldByteAs_err (impl : Config.Impl) (s : State) (b : Byte) :
    (s.foldByteAs impl b).err = s.err := rfl
@[simp] theorem State.foldByteAs_errWord (impl : Config.Impl) (s : State) (b : Byte) :
    (s.foldByteAs impl b).errWord = s.errWord := rfl
@[simp] theorem State.foldByteAs_wasReset (impl : Config.Impl) (s : State) (b : Byte) :
    (s.foldByteAs impl b).wasReset = s.wasReset := rfl
@[simp] theorem State.foldByteAs_inputs (impl : Config.Impl) (s : State) (b : Byte) :
    (s.foldByteAs impl b).inputs = s.inputs := rfl
@[simp] theorem State.foldByteAs_draws (impl : Config.Impl) (s : State) (b : Byte) :
    (s.foldByteAs impl b).draws = s.draws := rfl

@[simp] theorem State.powerUp_inputs (ins : List PortSample) : (State.powerUp ins).inputs = ins := rfl
@[simp] theorem State.powerUp_wasReset (ins : List PortSample) : (State.powerUp ins).wasReset = false := rfl

/-- Once a reset has taken effect the ports carry the registers (10_state.md R23). -/
theorem State.outputs_of_wasReset {s : State} (h : s.wasReset = true) :
    s.outputs = { crcOut := s.crc, crcZero := s.crcZero, err := s.err, errWord := s.errWord } := by
  simp [State.outputs, h]

/-- Before the first reset they carry free values (70_reset_and_hazards.md R96). -/
theorem State.outputs_before_reset {s : State} (h : s.wasReset = false) : s.outputs = s.freeOutputs := by
  simp [State.outputs, h]

theorem State.crcZero_eq_true (s : State) : s.crcZero = true ↔ s.crc = 0x0000#16 := by simp [State.crcZero]

@[simp] theorem idleSample_rst : idleSample.rst = false := rfl
@[simp] theorem idleSample_cmdValid : idleSample.cmdValid = false := rfl
@[simp] theorem commandSample_rst (w : Word) : (commandSample w).rst = false := rfl
@[simp] theorem commandSample_cmdValid (w : Word) : (commandSample w).cmdValid = true := rfl
@[simp] theorem commandSample_cmdWord (w : Word) : (commandSample w).cmdWord = w := rfl
@[simp] theorem commandSample_setupHold (w : Word) : (commandSample w).setupHold = true := rfl
@[simp] theorem resetSample_rst : resetSample.rst = true := rfl

end Sys2Proof.Machine
end

