-- ==== Sys2Proof/Laws/Ops.lean ====
section
/-! SUPPORT. For each shared operation, what it can do, said once: taking a sample off the port, accepting a word, meeting a
sample. -/

namespace Sys2Proof.Machine

theorem nextSample_nil {s : State} (h : s.inputs = []) : nextSample s = (idleSample, s) := by
  simp [nextSample, h]

theorem nextSample_cons {s : State} {e : PortSample} {rest : List PortSample} (h : s.inputs = e :: rest) :
    nextSample s = (e, { s with inputs := rest }) := by
  simp [nextSample, h]

/-- Taking a sample off the port touches nothing but the list of samples. -/
theorem nextSample_snd (s : State) : (nextSample s).2 = { s with inputs := s.inputs.tail } := by
  cases h : s.inputs with
  | nil => rw [nextSample_nil h, List.tail_nil, ← h]
  | cons e rest => rw [nextSample_cons h, List.tail_cons]

@[simp] theorem nextSample_offer (s : State) (w : Word) : nextSample (s.offer w) = (commandSample w, s) := rfl

theorem acceptWord_of_instr {w : Word} {i : Instr} (h : decode w = .instr i) (s : State) :
    acceptWord w s = exec i s := by
  simp [acceptWord, h]

theorem acceptWord_of_illegal {w v : Word} {kind : IllegalKind} (h : decode w = .illegal kind v) (s : State) :
    acceptWord w s = .next (s.raiseIllegal w) := by
  simp [acceptWord, h, decode_illegal_word h]

/-- Accepting a word: exactly one of the four effects of 41_commands.md R63. -/
theorem acceptWord_cases (w : Word) (s : State) :
    (decode w = .instr .nop ∧ acceptWord w s = .next s) ∨
      (decode w = .instr .init ∧ acceptWord w s = .next s.loadPreset) ∨
      (∃ b, decode w = .instr (.feed b) ∧ acceptWord w s = .next (s.foldByte b)) ∨
      (decode w = .illegal (illegalKind w) w ∧ acceptWord w s = .next (s.raiseIllegal w)) := by
  rcases decode_cases w with ⟨-, e⟩ | ⟨-, e⟩ | ⟨-, -, e⟩ | e
  · exact .inl ⟨e, acceptWord_of_instr e s⟩
  · exact .inr (.inl ⟨e, acceptWord_of_instr e s⟩)
  · exact .inr (.inr (.inl ⟨_, e, acceptWord_of_instr e s⟩))
  · exact .inr (.inr (.inr ⟨e, acceptWord_of_illegal e s⟩))

/-- Every word has an effect, and `applyWord` is it. -/
theorem acceptWord_eq_next (w : Word) (s : State) : acceptWord w s = .next (s.applyWord w) := by
  rcases acceptWord_cases w s with ⟨-, e⟩ | ⟨-, e⟩ | ⟨b, -, e⟩ | ⟨-, e⟩ <;> simp [State.applyWord, e]

/-- A word does not read or write what the host drives next. -/
theorem applyWord_inputs (w : Word) (s : State) (ins : List PortSample) :
    State.applyWord { s with inputs := ins } w = { s.applyWord w with inputs := ins } := by
  unfold State.applyWord acceptWord
  cases decode w with
  | instr i => cases i <;> rfl
  | illegal _ _ => rfl

/-- No word changes whether a reset has taken effect, or draws a free value. -/
theorem applyWord_wasReset (w : Word) (s : State) :
    (s.applyWord w).wasReset = s.wasReset ∧ (s.applyWord w).draws = s.draws := by
  rcases acceptWord_cases w s with ⟨-, e⟩ | ⟨-, e⟩ | ⟨b, -, e⟩ | ⟨-, e⟩ <;> simp [State.applyWord, e]

/-- Before the first reset a sample with `rst` = 0 leaves an unspecified engine, or is refused (log entry 4). -/
theorem sampleBeforeReset_cases (e : PortSample) (s : State) :
    (e.cmdValid = true ∧ e.setupHold = false ∧ sampleBeforeReset e s = .refused .setupHoldViolated) ∨
      ((e.cmdValid = true → e.setupHold = true) ∧ sampleBeforeReset e s = .next s.unspecified) := by
  unfold sampleBeforeReset
  cases e.cmdValid <;> cases e.setupHold <;> simp

/-- Meeting a sample: reset, the refusal of log entry 4, before the first reset an unspecified engine, and after it
acceptance or nothing (60_exceptions.md R82, 10_state.md R22, 70_reset_and_hazards.md R96). -/
theorem takeSample_cases (e : PortSample) (s : State) :
    (e.rst = true ∧ takeSample e s = .next s.resetRegs) ∨
      (e.rst = false ∧ e.cmdValid = true ∧ e.setupHold = false ∧ takeSample e s = .refused .setupHoldViolated) ∨
      (e.rst = false ∧ s.wasReset = false ∧ (e.cmdValid = true → e.setupHold = true) ∧
        takeSample e s = .next s.unspecified) ∨
      (e.rst = false ∧ s.wasReset = true ∧ e.cmdValid = true ∧ e.setupHold = true ∧
        takeSample e s = .next (s.applyWord e.cmdWord)) ∨
      (e.rst = false ∧ s.wasReset = true ∧ e.cmdValid = false ∧ takeSample e s = .next s) := by
  unfold takeSample sampleBeforeReset
  cases e.rst <;> cases s.wasReset <;> cases e.cmdValid <;> cases e.setupHold <;> simp [acceptWord_eq_next]

/-- A step that answers a next state: a reset, before the first reset an unspecified engine, the acceptance of a word, or
nothing but the sample taken off. -/
theorem step_cases {s t : State} (h : step s = .next t) :
    let e := (nextSample s).1
    (e.rst = true ∧ t = { s.resetRegs with inputs := s.inputs.tail }) ∨
      (e.rst = false ∧ s.wasReset = false ∧ t = { s.unspecified with inputs := s.inputs.tail }) ∨
      (e.rst = false ∧ s.wasReset = true ∧ e.cmdValid = true ∧ e.setupHold = true ∧
        t = { s.applyWord e.cmdWord with inputs := s.inputs.tail }) ∨
      (e.rst = false ∧ s.wasReset = true ∧ e.cmdValid = false ∧ t = { s with inputs := s.inputs.tail }) := by
  unfold step at h
  have hs := nextSample_snd s
  rcases takeSample_cases (nextSample s).1 (nextSample s).2 with
    ⟨a, b⟩ | ⟨-, -, -, b⟩ | ⟨a, w, -, b⟩ | ⟨a, w, v, u, b⟩ | ⟨a, w, v, b⟩ <;> rw [b] at h <;> cases h <;> rw [hs] at *
  · exact .inl ⟨a, rfl⟩
  · exact .inr (.inl ⟨a, w, rfl⟩)
  · exact .inr (.inr (.inl ⟨a, w, v, u, applyWord_inputs _ _ _⟩))
  · exact .inr (.inr (.inr ⟨a, w, v, rfl⟩))

end Sys2Proof.Machine
end

