-- ==== Sys2Proof/Laws/Clocked.lean ====
section
/-! SUPPORT. Edges of the clock level, one at a time and in a row, and what an edge under reset leaves. -/

namespace Sys2Proof.Machine

/-- An edge at which the sample `e` is on the ports. -/
theorem edge_cons (p : Config.Params) (c : Clocked) (e : PortSample) (rest : List PortSample)
    (h : c.eng.inputs = e :: rest) :
    c.edge p =
      if e.rst then .next (Clocked.underReset p (c.held + 1) { c with eng := { c.eng with inputs := rest } })
      else if c.eng.wasReset then Clocked.running p e { c with eng := { c.eng with inputs := rest }, held := 0 }
      else Clocked.beforeReset e { c with eng := { c.eng with inputs := rest }, held := 0 } := by
  simp [Clocked.edge, nextSample_cons h]

/-- Edges in a row are edges, then edges. -/
theorem edges_add (p : Config.Params) (m n : Nat) (c d : Clocked) (h : c.edges p m = .next d) :
    c.edges p (m + n) = d.edges p n := by
  induction m generalizing c with
  | zero => cases h; rw [Nat.zero_add]
  | succ m ih =>
    rw [Nat.succ_add]
    simp only [Clocked.edges] at h ⊢
    cases he : c.edge p with
    | next c' => rw [he] at h; exact ih c' h
    | fault f => rw [he] at h; cases h
    | refused r => rw [he] at h; cases h

@[simp] theorem underReset_inputs (p : Config.Params) (k : Nat) (c : Clocked) :
    (c.underReset p k).eng.inputs = c.eng.inputs := by
  unfold Clocked.underReset; split <;> rfl

@[simp] theorem underReset_inFlight (p : Config.Params) (k : Nat) (c : Clocked) :
    (c.underReset p k).inFlight = none := rfl

@[simp] theorem underReset_settle (p : Config.Params) (k : Nat) (c : Clocked) :
    (c.underReset p k).settle = p.readyDelay := rfl

@[simp] theorem underReset_held (p : Config.Params) (k : Nat) (c : Clocked) : (c.underReset p k).held = k := rfl

theorem underReset_of_held {p : Config.Params} {k : Nat} (c : Clocked) (h : p.resetHold ≤ k) :
    (c.underReset p k).eng = c.eng.resetRegs := by
  simp [Clocked.underReset, h]

theorem underReset_of_short {p : Config.Params} {k : Nat} (c : Clocked) (h : k < p.resetHold) :
    (c.underReset p k).eng = c.eng.unspecified := by
  simp [Clocked.underReset, Nat.not_le.mpr h]

/-- Before the first reset an edge leaves an unspecified engine, or is refused (log entry 4). -/
theorem beforeReset_cases (e : PortSample) (c : Clocked) :
    (e.cmdValid = true ∧ e.setupHold = false ∧ Clocked.beforeReset e c = .refused .setupHoldViolated) ∨
      Clocked.beforeReset e c = .next { c with eng := c.eng.unspecified, inFlight := none } := by
  rcases sampleBeforeReset_cases e c.eng with ⟨hv, hs, h⟩ | ⟨-, h⟩
  · exact .inl ⟨hv, hs, by simp [Clocked.beforeReset, h]⟩
  · exact .inr (by simp [Clocked.beforeReset, h])

/-- In the valid window the host samples the registers and changes nothing (10_state.md R23). -/
theorem sample_of_idle {c : Clocked} (h : c.idle = true) : c.sample false = (c.eng.outputs, c) := by
  simp [Clocked.sample, h]

/-- Steps in a row are steps, then steps. -/
theorem runSteps_add (m n : Nat) (s t : State) (h : runSteps m s = .next t) :
    runSteps (m + n) s = runSteps n t := by
  induction m generalizing s with
  | zero => cases h; rw [Nat.zero_add]
  | succ m ih =>
    rw [Nat.succ_add]
    simp only [runSteps] at h ⊢
    cases he : step s with
    | next s' => rw [he] at h; exact ih s' h
    | fault f => rw [he] at h; cases h
    | refused r => rw [he] at h; cases h

end Sys2Proof.Machine
end

