-- ==== Sys2Proof/Laws/Crc.lean ====
section
/-! SUPPORT. The bit step over XOR and over values whose low bits are clear (40_crc_arithmetic.md R54, R60): what the
equivalence, linearity and residue statements rest on. -/

namespace Sys2Proof.Machine

theorem bitstep_xor (a b : Word) : bitstep (a ^^^ b) = bitstep a ^^^ bitstep b := by
  unfold bitstep
  rw [BitVec.getLsbD_xor, BitVec.ushiftRight_xor_distrib]
  cases a.getLsbD 0 <;> cases b.getLsbD 0 <;> simp <;> ac_nf
  simp

theorem bitsteps_xor (k : Nat) (a b : Word) : bitsteps k (a ^^^ b) = bitsteps k a ^^^ bitsteps k b := by
  induction k generalizing a b with
  | zero => rfl
  | succ k ih => simp only [bitsteps, bitstep_xor, ih]

theorem bitsteps_add (j k : Nat) (a : Word) : bitsteps (j + k) a = bitsteps k (bitsteps j a) := by
  induction j generalizing a with
  | zero => simp [bitsteps]
  | succ j ih => rw [Nat.succ_add]; exact ih _

/-- Bit steps of a value whose low bits are clear are a plain shift. -/
theorem bitsteps_of_low_clear (k : Nat) (a : Word) (h : ∀ i < k, a.getLsbD i = false) : bitsteps k a = a >>> k := by
  induction k generalizing a with
  | zero => simp [bitsteps]
  | succ k ih =>
    have e : bitstep a = a >>> 1 := by unfold bitstep; rw [h 0 (by omega)]; rfl
    rw [bitsteps, e, ih, ← BitVec.shiftRight_add, Nat.add_comm]
    intro i hi
    rw [BitVec.getLsbD_ushiftRight]
    exact h _ (by omega)

end Sys2Proof.Machine
end

