-- ==== Sys2Proof/Laws/PerInstr.lean ====
section
/-! SUPPORT. Per-instruction statements about the instruction as syntax: its word holds its fields, and they are legal
(30_encoding.md R43, R45). -/

/-- The word of a command has the command's fields, and they are legal field values. -/
def Sys2Proof.Laws.FieldsEncoded.Statement (i : Sys2Proof.Instr) : Prop :=
  Sys2Proof.Fields.ofWord (Sys2Proof.encode i) = i.fields ∧ i.wellFormed = true

theorem Sys2Proof.Laws.FieldsEncoded.nop : Sys2Proof.Laws.FieldsEncoded.Statement .nop := by
  unfold Sys2Proof.Laws.FieldsEncoded.Statement; decide

theorem Sys2Proof.Laws.FieldsEncoded.init : Sys2Proof.Laws.FieldsEncoded.Statement .init := by
  unfold Sys2Proof.Laws.FieldsEncoded.Statement; decide

theorem Sys2Proof.Laws.FieldsEncoded.feed (b : Sys2Proof.Byte) : Sys2Proof.Laws.FieldsEncoded.Statement (.feed b) := by
  unfold Sys2Proof.Laws.FieldsEncoded.Statement
  revert b
  decide
end

