-- ==== Sys2Proof/Tests/Slice0.lean ====
section
/-! SUPPORT. Small tests whose expected values are those of spec/95_test_vectors.md (named by their ids), the smoke test of
WellFormed, and for every statement with hypotheses a witness that meets them, at boundary values where there are ranges. -/

namespace Sys2Proof.Tests

open Sys2Proof Sys2Proof.Machine

/-- A state with these registers and nothing offered. -/
def st (crc : Word) (err : Bool) (errWord : Word) : State := 
  { crc := crc, err := err, errWord := errWord, wasReset := true, inputs := [], draws := 0 }

/-- A state with these registers and these samples to come. -/
def stWith (crc : Word) (err : Bool) (errWord : Word) (ins : List PortSample) : State :=
  
  { crc := crc, err := err, errWord := errWord, wasReset := true, inputs := ins, draws := 0 }

/-- What is observed of an outcome: the triple of 42_host_procedures.md R77, if there is a next state. -/
def seen (o : Host.Outcome State Fault Refusal) : Option (Word × Bool × Word) :=
  match o with
  | .next t => some t.observe
  | .fault _ | .refused _ => none

/-- What is observed of a clock-level outcome, and whether the engine is ready. -/
def seenClocked (o : Host.Outcome Clocked Fault Refusal) : Option ((Word × Bool × Word) × Bool) :=
  match o with
  | .next d => some (d.eng.observe, d.cmdReady false)
  | .fault _ | .refused _ => none

/-- The illustration of 70_reset_and_hazards.md R102: two cycles per FEED, one per other command. -/
def params : Config.Params :=
  { impl := .byteTable, latNop := 1, latInit := 1, latFeed := 2, latIllegal := 1, resetStyle := .async,
    resetHold := 2, readyDelay := 1, crcBase := 0 }

/-- Every latency and delay 0. -/
def paramsFast : Config.Params :=
  { impl := .nibbleTable, latNop := 0, latInit := 0, latFeed := 0, latIllegal := 0, resetStyle := .sync,
    resetHold := 1, readyDelay := 0, crcBase := 0 }

/-- An idle clock-level engine around a state. -/
def clocked (s : State) : Clocked := { eng := s, inFlight := none, settle := 0, held := 0 }

/-- An engine with a FEED in progress. -/
def busy (s : State) : Clocked :=
  { eng := s, inFlight := some { word := 0x2001#16, left := 2 }, settle := 0, held := 1 }

/-! ## WellFormed: each check refuses an ill-formed term -/

theorem test_rsv_refused : Fields.wellFormed { op := 2, rsv := 1, imm8 := 0 } = false := by decide
theorem test_op_refused : Fields.wellFormed { op := 3, rsv := 0, imm8 := 0 } = false := by decide
theorem test_nop_imm_refused : Fields.wellFormed { op := 0, rsv := 0, imm8 := 1 } = false := by decide
theorem test_init_imm_refused : Fields.wellFormed { op := 1, rsv := 0, imm8 := 0xFF } = false := by decide
theorem test_feed_imm_accepted : Fields.wellFormed { op := 2, rsv := 0, imm8 := 0xFF } = true := by decide
theorem test_feed_operand_refused : feedOperandOk 256 = false ∧ feedOperandOk 255 = true := by decide
theorem test_word_operand_refused : wordOperandOk 65536 = false ∧ wordOperandOk 65535 = true := by decide

/-! ## Decoding (section 2.6; words written bit by bit as op, rsv, imm8 in Decode.lean) -/

/-- V-D2 to V-D5, V-D7 to V-D9, V-D14 to V-D22: the illegal words of the table. -/
theorem test_decode_illegal :
    ([0x0001#16, 0x0080#16, 0x0100#16, 0x0F00#16, 0x1001#16, 0x10FF#16, 0x1100#16, 0x2100#16, 0x2800#16, 0x2FFF#16,
      0x3000#16, 0x30FF#16, 0x7FFF#16, 0x8000#16, 0xF000#16, 0xFFFF#16].all Safety.illegalWord) = true := by decide

/-- V-D1, V-D6, V-D10 to V-D13. -/
theorem test_decode_legal :
    [0x0000#16, 0x1000#16, 0x2000#16, 0x2001#16, 0x207F#16, 0x20FF#16].map decode =
      [.instr .nop, .instr .init, .instr (.feed 0x00#8), .instr (.feed 0x01#8), .instr (.feed 0x7F#8),
        .instr (.feed 0xFF#8)] := by decide

theorem test_table_word : decodeTableWord 16 0x20A5 = some (.feed 0xA5#8) ∧ decodeTableWord 16 0x3000 = none := by decide

/-- The first instruction after reset is the one placed. -/
theorem test_fetch_feed : seen (step (State.reset.withFetchWord 16 0x2001)) = some (0x807E#16, false, 0x0000#16) := by
  decide

/-! ## Arithmetic (sections 2.1 to 2.3) -/

/-- V-B1 to V-B8. -/
theorem test_bitstep :
    [0xFFFE#16, 0x0000#16, 0x0001#16, 0x0002#16, 0x8000#16, 0xFFFF#16, 0xA001#16, 0x0003#16].map bitstep =
      [0x7FFF#16, 0x0000#16, 0xA001#16, 0x0001#16, 0x4000#16, 0xDFFE#16, 0xF001#16, 0xA000#16] := by decide

/-- V-N5, V-N6, V-N8, V-N9. -/
theorem test_nibstep :
    nibstep 0xFFFF#16 0x0#4 = 0x4BFF#16 ∧ nibstep 0x1234#16 0x5#4 = 0xCD22#16 ∧
      nibstep 0xABCD#16 0xD#4 = 0x0ABC#16 ∧ nibstep 0xFFF0#16 0x0#4 = 0x0FFF#16 := by decide

/-- V-S4, V-S10, V-S11, V-S14, under each IMPL. -/
theorem test_step_vectors :
    ([Config.Impl.bitSerial, .nibbleTable, .byteTable].all fun i =>
      crcStepAs i 0x0000#16 0x01#8 == 0xC0C1#16 && crcStepAs i 0x1234#16 0x56#8 == 0xE993#16 &&
        crcStepAs i 0xA001#16 0x00#8 == 0xC061#16 && crcStepAs i 0xFFFF#16 0x80#8 == 0xE0BE#16) = true := by decide

/-- V-M10, V-M12, V-M14. -/
theorem test_checksums :
    checksum [0x01#8, 0x03#8, 0x00#8, 0x00#8, 0x00#8, 0x01#8] = 0x0A84#16 ∧
      checksum [0x11#8, 0x03#8, 0x00#8, 0x6B#8, 0x00#8, 0x03#8] = 0x8776#16 ∧
      checksum [0x01#8, 0x86#8, 0x02#8] = 0xA1C3#16 := by decide

/-! ## Commands, errors, reset (section 2.7) -/

/-- V-C1. -/
theorem test_nop : seen (exec .nop (st 0x1234#16 false 0#16)) = some (0x1234#16, false, 0#16) := by decide
/-- V-C2. -/
theorem test_init : seen (exec .init (st 0x1EC0#16 false 0#16)) = some (0xFFFF#16, false, 0#16) := by decide
/-- V-E4: INIT does not clear the error. -/
theorem test_init_keeps_err : seen (exec .init (st 0x1EC0#16 true 0x3000#16)) = some (0xFFFF#16, true, 0x3000#16) := by
  decide
/-- V-C4. -/
theorem test_feed : seen (exec (.feed 0x01#8) (st 0xFFFF#16 false 0#16)) = some (0x807E#16, false, 0#16) := by decide
/-- V-E3: FEED works while `err` = 1. -/
theorem test_feed_after_err :
    seen (exec (.feed 0xC0#8) (st 0x1EC0#16 true 0x3000#16)) = some (0x001E#16, true, 0x3000#16) := by decide
/-- V-E1. -/
theorem test_illegal : seen (step ((st 0x1EC0#16 false 0#16).offer 0x3000#16)) = some (0x1EC0#16, true, 0x3000#16) := by
  decide
/-- V-E2: the first word is kept. -/
theorem test_illegal_again :
    seen (step ((st 0x1EC0#16 true 0x3000#16).offer 0x2100#16)) = some (0x1EC0#16, true, 0x3000#16) := by decide
/-- V-E5. -/
theorem test_illegal_nop_opcode :
    seen (step ((st 0x5555#16 false 0#16).offer 0x0001#16)) = some (0x5555#16, true, 0x0001#16) := by decide
/-- V-R1 and V-R3: reset at the edge of a valid command. -/
theorem test_reset_dominates :
    seen (step (stWith 0x807E#16 true 0x3000#16 [{ rst := true, cmdValid := true, cmdWord := 0x2004#16, setupHold := true }])) =
      some (0xFFFF#16, false, 0#16) := by decide
/-- V-R2: FEED aborted by reset before it completes. -/
theorem test_reset_aborts :
    seenClocked ((busy (stWith 0x1EC0#16 true 0x3000#16 [resetSample])).edge params) =
      some ((0xFFFF#16, false, 0#16), false) := by decide
/-- V-D10 accepted with `LAT_FEED` = 2: not ready after one edge, the effect in the state after the second. -/
theorem test_latency :
    seenClocked ((clocked ((st 0xFFFF#16 false 0#16).offer 0x2001#16)).edges params 2) =
        some ((0xFFFF#16, false, 0#16), false) ∧
      seenClocked ((clocked ((st 0xFFFF#16 false 0#16).offer 0x2001#16)).edges params 3) =
        some ((0x807E#16, false, 0#16), true) := by decide

/-- The disassembler's forms of 30_encoding.md R48. -/
theorem test_disassemble :
    disassemble 0x20C0#16 = ['F', 'E', 'E', 'D', ' ', '0', 'x', 'C', '0'] ∧
      disassemble 0x3000#16 = ['.', 'w', 'o', 'r', 'd', ' ', '0', 'x', '3', '0', '0', '0'] := by decide

/-! ## Witnesses: the hypotheses of the statements can be met -/

theorem witness_EncodeOfDecodedWord : decode 0x20FF#16 = .instr (.feed 0xFF#8) := by decide

theorem witness_OpcodeMapDecides :
    0x0000#16 &&& 0xFFFF#16 = 0x0000#16 ∧ 0x1000#16 &&& 0xFFFF#16 = 0x1000#16 ∧
      0x2000#16 &&& 0xFF00#16 = 0x2000#16 ∧ 0x20FF#16 &&& 0xFF00#16 = 0x2000#16 ∧
      (0x2100#16 &&& 0xFFFF#16 ≠ 0x0000#16 ∧ 0x2100#16 &&& 0xFFFF#16 ≠ 0x1000#16 ∧
        0x2100#16 &&& 0xFF00#16 ≠ 0x2000#16) := by decide

/-- The ends of the four ranges of 30_encoding.md R46, and their legal neighbours. -/
theorem witness_IllegalWordRanges :
    ([0x0001#16, 0x0FFF#16, 0x1001#16, 0x1FFF#16, 0x2100#16, 0x2FFF#16, 0x3000#16, 0xFFFF#16].all Safety.illegalWord) ∧
      ([0x0000#16, 0x1000#16, 0x2000#16, 0x20FF#16].all fun w => !Safety.illegalWord w) := by decide

theorem witness_NopChangesNothing :
    (0x0FFF#16).extractLsb' 12 4 = 0#4 ∧ 0x0FFF#16 ≠ 0x0000#16 ∧ (st 0x1234#16 true 0x3000#16).crc = 0x1234#16 := by decide

theorem witness_InitLoadsPreset : (st 0x1EC0#16 true 0x3000#16).crc = 0x1EC0#16 := by decide

theorem witness_AcceptingAWord :
    decode 0x0000#16 = .instr .nop ∧ decode 0x1000#16 = .instr .init ∧ decode 0x2000#16 = .instr (.feed 0x00#8) ∧
      Safety.illegalWord 0x3000#16 = true := by decide

/-- A step that changes the registers by a command, and one that does so by reset. -/
theorem witness_AcceptingAWord_step :
    (∃ t, step ((st 0xFFFF#16 false 0#16).offer 0x2001#16) = .next t ∧ t.observe ≠ (0xFFFF#16, false, 0#16)) ∧
      (∃ t, step (stWith 0x1234#16 true 0x3000#16 [resetSample]) = .next t ∧ t.observe ≠ (0x1234#16, true, 0x3000#16)) :=
  ⟨⟨_, rfl, by decide⟩, ⟨_, rfl, by decide⟩⟩

theorem witness_StepRunsDecodedInstruction :
    (stWith 0#16 false 0#16 [commandSample 0x20FF#16]).wasReset = true ∧ (st 0#16 true 1#16).wasReset = true ∧
    (stWith 0#16 false 0#16 [commandSample 0x20FF#16]).inputs = commandSample 0x20FF#16 :: [] ∧
      (commandSample 0x20FF#16).rst = false ∧ (commandSample 0x20FF#16).cmdValid = true ∧
      (commandSample 0x20FF#16).setupHold = true ∧ decode (commandSample 0x20FF#16).cmdWord = .instr (.feed 0xFF#8) ∧
      decodeTableWord 16 0x1000 = some .init := by decide

theorem witness_NothingOfferedNothingChanges :
    (st 0#16 false 0#16).inputs = [] ∧ (stWith 0#16 true 1#16 [idleSample]).inputs = idleSample :: [] ∧
      idleSample.rst = false ∧ idleSample.cmdValid = false := by decide

/-- The refused sample, and the other branch. -/
theorem witness_EngineNeverStalls :
    step (stWith 0#16 false 0#16 [{ rst := false, cmdValid := true, cmdWord := 0#16, setupHold := false }]) =
        .refused .setupHoldViolated ∧
      step (stWith 0#16 false 0#16 [{ rst := true, cmdValid := true, cmdWord := 0#16, setupHold := false }]) =
        .next State.reset := ⟨rfl, rfl⟩

/-- A reset, an INIT and a FEED that write another value, and command words without INIT. -/
theorem witness_CrcWritersAndMeaning :
    (∃ t, step (stWith 0#16 false 0#16 [resetSample]) = .next t ∧ t.crc ≠ 0#16) ∧
      (∃ t, step ((st 0#16 false 0#16).offer 0x1000#16) = .next t ∧ t.crc ≠ 0#16) ∧
      (∃ t, step ((st 0#16 false 0#16).offer 0x2001#16) = .next t ∧ t.crc ≠ 0#16) ∧
      0x1000#16 ∉ [0x2001#16, 0x3000#16, 0x0000#16] :=
  ⟨⟨_, rfl, by decide⟩, ⟨_, rfl, by decide⟩, ⟨_, rfl, by decide⟩, by decide⟩

theorem witness_RepeatedCommands :
    Safety.illegalWord 0x3000#16 = true ∧
      acceptWord 0x3000#16 (st 0#16 false 0#16) = .next (st 0#16 true 0x3000#16) ∧
      exec .init (st 0#16 false 0#16) = .next (st 0xFFFF#16 false 0#16) ∧
      exec .nop (st 0#16 false 0#16) = .next (st 0#16 false 0#16) := ⟨by decide, rfl, rfl, rfl⟩

theorem witness_ErrorRecordDoesNotTouchCrc :
    (st 0xFFFF#16 true 0x3000#16).crc = (st 0xFFFF#16 false 0#16).crc ∧
      ((st 0xFFFF#16 true 0x3000#16).offer 0x2001#16).inputs = ((st 0xFFFF#16 false 0#16).offer 0x2001#16).inputs ∧
      step ((st 0xFFFF#16 false 0#16).offer 0x2001#16) = .next (st 0x807E#16 false 0#16) := ⟨rfl, rfl, rfl⟩

/-- Samples without a reset, all in time: a command, an idle one, and one whose word is not offered. -/
def runSamples : List PortSample :=
  [commandSample 0x2001#16, idleSample, { rst := false, cmdValid := false, cmdWord := 0x3000#16, setupHold := false },
    commandSample 0x3000#16, commandSample 0x2100#16]

theorem witness_RunTakesAcceptedWordsInOrder :
    Safety.noReset runSamples = true ∧ Safety.timed runSamples = true ∧
      (stWith 0xFFFF#16 false 0#16 (runSamples ++ [resetSample])).inputs = runSamples ++ [resetSample] := by decide

theorem witness_IllegalCommandIsRecorded :
    Safety.illegalWord (commandSample 0xFFFF#16).cmdWord = true ∧
      (stWith 0#16 true 1#16 [commandSample 0xFFFF#16]).inputs = commandSample 0xFFFF#16 :: [] ∧
      (clocked (stWith 0#16 false 0#16 (commandSample 0x3000#16 :: [idleSample]))).idle = true ∧
      (stWith 0#16 false 0#16 (commandSample 0x3000#16 :: [idleSample])).inputs =
        commandSample 0x3000#16 :: (List.replicate params.latIllegal idleSample ++ []) := by decide

/-- Each clause of the stickiness statement: a reset, an illegal word, a step with `err` = 1. -/
theorem witness_ErrIsSticky :
    (∃ t, step (stWith 0#16 true 0x3000#16 [resetSample]) = .next t ∧ t.err = false) ∧
      (∃ t, step ((st 0#16 false 0#16).offer 0x0001#16) = .next t ∧ t.err = true) ∧
      (∃ t, step ((st 0#16 true 0x3000#16).offer 0x1000#16) = .next t ∧ t.err = true) :=
  ⟨⟨_, rfl, rfl⟩, ⟨_, rfl, rfl⟩, ⟨_, rfl, rfl⟩⟩

/-- A run with two illegal words records the first. -/
theorem witness_ErrWordIsFirstIllegalWord :
    seen (runSteps runSamples.length { State.reset with inputs := runSamples ++ [] }) =
      some (0x807E#16, true, 0x3000#16) := by decide

/-- Both clauses of the step part: a reset and a first illegal word. -/
theorem witness_ErrWordIsFirstIllegalWord_step :
    (∃ t, step (stWith 0#16 true 0x3000#16 [resetSample]) = .next t ∧ t.errWord ≠ 0x3000#16) ∧
      (∃ t, step ((st 0#16 false 0#16).offer 0x0001#16) = .next t ∧ t.errWord ≠ 0#16) :=
  ⟨⟨_, rfl, by decide⟩, ⟨_, rfl, by decide⟩⟩

theorem witness_ErrorStaysUntilReset :
    Safety.noReset runSamples = true ∧ (st 0#16 true 0x2100#16).err = true ∧ Safety.illegalWord 0x3000#16 = true ∧
      seen (runSteps runSamples.length (stWith 0xFFFF#16 true 0x2100#16 (runSamples ++ []))) =
        some (0x807E#16, true, 0x2100#16) ∧ resetSample.rst = true := by decide

/-- The invariant at both values of `err`, with steps from such states, and from power-up, where it asks nothing. -/
theorem witness_ErrorRecordKeptByEveryStep :
    Safety.errorRecordOk (st 0#16 true 0x3000#16) = true ∧ Safety.errorRecordOk (st 0#16 false 0#16) = true ∧
      Safety.errorRecordOk (st 0#16 true 0x1000#16) = false ∧
      (∃ t, step ((st 0#16 false 0#16).offer 0x3000#16) = .next t) ∧
      (State.powerUp []).wasReset = false ∧ (∃ t, step ((State.powerUp []).offer 0x3000#16) = .next t) :=
  ⟨by decide, by decide, by decide, ⟨_, rfl⟩, rfl, ⟨_, rfl⟩⟩

theorem witness_ResetDominates :
    (stWith 0#16 true 1#16 [resetSample, idleSample]).inputs = resetSample :: [idleSample] ∧
      params.resetHold ≤ (busy (stWith 0#16 true 1#16 [resetSample])).held + 1 := by decide

/-- 70_reset_and_hazards.md R96: before the first reset neither INIT nor an illegal word fixes a register. -/
theorem test_before_reset :
    step ((State.powerUp []).offer 0x1000#16) = .next (State.powerUp []).unspecified ∧
      step ((State.powerUp []).offer 0x3000#16) = .next (State.powerUp []).unspecified := ⟨rfl, rfl⟩

/-- Before the first reset nothing offered and a command in time; a reset; and samples of every kind but a reset. -/
theorem witness_UnspecifiedUntilReset :
    (State.powerUp []).wasReset = false ∧ (nextSample (State.powerUp [])).1.rst = false ∧
      (nextSample (State.powerUp [])).1.cmdValid = false ∧
      (nextSample ((State.powerUp []).offer 0x3000#16)).1.setupHold = true ∧
      (∃ t, step (State.powerUp [resetSample]) = .next t ∧ t.wasReset = true) ∧
      (State.powerUp (runSamples ++ [resetSample])).inputs = runSamples ++ [resetSample] ∧
      Safety.noReset runSamples = true ∧ Safety.timed runSamples = true :=
  ⟨rfl, rfl, rfl, rfl, ⟨_, rfl, rfl⟩, rfl, by decide, by decide⟩

/-- Samples before the first reset, and a reset held for the minimum. -/
theorem witness_PowerUpThenReset :
    resetSample.rst = true ∧ Safety.noReset [commandSample 0x2001#16, idleSample] = true ∧
      Safety.timed [commandSample 0x2001#16, idleSample] = true ∧ 1 ≤ 2 ∧ params.resetHold ≤ 2 ∧
      (Clocked.powerUp []).eng.wasReset = false := by decide

/-- The boot of 70_reset_and_hazards.md R96 on the clock level, with a command offered before the reset. -/
theorem test_boot :
    seenClocked ((Clocked.powerUp [commandSample 0x2001#16, resetSample, resetSample, idleSample]).edges params 4) =
      some ((0xFFFF#16, false, 0#16), true) := by decide

theorem witness_ResetAbortsInFlight :
    (busy (stWith 0#16 true 1#16 [resetSample])).eng.inputs = resetSample :: [] ∧ resetSample.rst = true ∧
      params.resetHold ≤ (busy (stWith 0#16 true 1#16 [resetSample])).held + 1 ∧
      (busy (stWith 0#16 true 1#16 [resetSample])).inFlight = some { word := 0x2001#16, left := 2 } := by decide

theorem witness_ResetStyleIsNotObservable :
    1 ≤ 2 ∧ params.resetHold ≤ 2 ∧
      (busy (stWith 0#16 true 1#16 [resetSample, resetSample, idleSample])).eng.inputs =
        List.replicate 2 resetSample ++ (List.replicate params.readyDelay idleSample ++ []) ∧
      (clocked (stWith 0#16 true 1#16 [resetSample])).eng.inputs = resetSample :: [] ∧
      (clocked (stWith 0#16 true 1#16 [resetSample])).held = 0 ∧
      Config.Params.resetHold { paramsFast with resetStyle := .async } ≤ 1 := by decide

theorem witness_ResetAcceptsNoCommand :
    (stWith 0#16 true 1#16 [{ rst := true, cmdValid := true, cmdWord := 0x2004#16, setupHold := false }]).inputs =
      { rst := true, cmdValid := true, cmdWord := 0x2004#16, setupHold := false } :: [] := by decide

theorem witness_BitStepIsABijection : bitstep 0x0001#16 = 0xA001#16 := by decide

theorem witness_ChecksumIsAFold : validate [0xFF#8, 0xFF#8] = true ∧ validate [0xFF#8, 0xFE#8] = false := by decide

theorem witness_NoFinalXor : (0x0001#16 : Word) ≠ 0x0000#16 := by decide

/-- The first bit of the message and the last bit of the second CRC byte. -/
theorem witness_SingleBitErrorsAreDetected :
    0 < (appendCrc [0x01#8, 0x04#8]).length ∧ 3 < (appendCrc [0x01#8, 0x04#8]).length ∧ 0 < 8 ∧ 7 < 8 := by decide

theorem witness_PseudoInstructionsCompute :
    (stWith 0#16 true 1#16 (commandSamples (pseudoWords (.checksum [0x01#8])))).inputs =
        commandSamples (pseudoWords (.checksum [0x01#8])) ++ [] ∧
      (stWith 0#16 true 1#16 (commandSamples (pseudoWords (.validate [])))).inputs =
        commandSamples (pseudoWords (.validate [])) ++ [] ∧
      (stWith 0#16 true 1#16 (commandSamples (pseudoWords (.feeds [0xFF#8])))).inputs =
        commandSamples (pseudoWords (.feeds [0xFF#8])) ++ [] := by decide

/-- The lengths where the two verdicts meet. -/
theorem witness_HostVerdicts :
    ([0xFF#8, 0xFF#8, 0xFF#8] : List Byte).length < 4 ∧ 4 ≤ ([0#8, 0#8, 0#8, 0#8] : List Byte).length ∧
      hostParse true [0#8, 0#8, 0#8, 0#8] = .crcMismatch ∧ hostParse true [0xFF#8, 0xFF#8] = .shortFrame := by decide

/-- A payload of one byte, the shortest frame the parse takes, its last two bytes no valid CRC; and a frame that
validates. -/
theorem witness_ParseWithoutValidation :
    [0x04#8] ≠ ([] : List Byte) ∧ hostParse true [0x01#8, 0x04#8, 0x00#8, 0x00#8] = .crcMismatch ∧
      hostParse false [0x01#8, 0x04#8, 0x00#8, 0x00#8] = .frame 0x01#8 [0x04#8] ∧
      validate [0x01#8, 0x04#8, 0x00#8, 0x0A#8, 0xC0#8, 0x1E#8] = true := by decide

theorem witness_MessagesChainWithoutInit : validate [0x01#8, 0x04#8, 0x00#8, 0x0A#8, 0xC0#8, 0x1E#8] = true := by decide

/-- An instance beside another, and a number no instance has. -/
theorem witness_InstancesShareNoState :
    (∃ es, stepInstance 1 [st 1#16 false 0#16, (st 0#16 false 0#16).offer 0x1000#16] = .next es ∧
      es[0]? = some (st 1#16 false 0#16) ∧ es[1]? = some (st 0xFFFF#16 false 0#16)) ∧
      stepInstance 2 [st 1#16 false 0#16] = .next [st 1#16 false 0#16] := ⟨⟨_, rfl, rfl, rfl⟩, rfl⟩

/-- An edge of each kind: held reset, short reset, before the first reset, ready, not ready. -/
theorem witness_ClockEdgeRefinesStep :
    (seenClocked ((busy (stWith 0#16 true 1#16 [resetSample])).edge params)).isSome = true ∧
      params.resetHold ≤ (busy (st 0#16 true 1#16)).held + 1 ∧
      (∃ d, (clocked (stWith 0#16 true 1#16 [resetSample])).edge params = .next d) ∧
      (clocked (st 0#16 true 1#16)).held + 1 < params.resetHold ∧
      (∃ d, (Clocked.powerUp [commandSample 0x2001#16]).edge params = .next d) ∧
      (Clocked.powerUp []).eng.wasReset = false ∧
      (seenClocked ((clocked ((st 0#16 false 0#16).offer 0x2001#16)).edge params)).isSome = true ∧
      (clocked (st 0#16 false 0#16)).idle = true ∧
      (seenClocked ((busy (st 0#16 false 0#16)).edge params)).isSome = true ∧
      (busy (st 0#16 false 0#16)).eng.wasReset = true ∧ (busy (st 0#16 false 0#16)).idle = false :=
  ⟨by decide, by decide, ⟨_, rfl⟩, by decide, ⟨_, rfl⟩, by decide, by decide, by decide, by decide, by decide, by decide⟩

theorem witness_ZeroLatencyEdgeIsStep :
    paramsFast.latNop = 0 ∧ paramsFast.latInit = 0 ∧ paramsFast.latFeed = 0 ∧ paramsFast.latIllegal = 0 ∧
      paramsFast.readyDelay = 0 ∧ paramsFast.resetHold ≤ 1 ∧
      (clocked ((st 0#16 false 0#16).offer 0x2001#16)).idle = true ∧
      (seen (step ((st 0#16 false 0#16).offer 0x2001#16))).isSome = true := by decide

theorem witness_CommandsOnlyThroughHandshake :
    (busy (st 0#16 false 0#16)).eng.wasReset = true ∧ (busy (st 0#16 false 0#16)).idle = false ∧
      ((clocked (stWith 0#16 false 0#16 [idleSample])).idle = true ∧ idleSample.cmdValid = false) ∧
      (busy (st 0#16 false 0#16)).edgesToReady = 2 ∧ (clocked (st 0#16 false 0#16)).edgesToReady = 0 ∧
      (busy (stWith 0#16 false 0#16 [commandSample 0x2004#16, commandSample 0x2004#16, commandSample 0x2004#16])).eng.inputs =
        List.replicate (2 + 1) (commandSample 0x2004#16) ++ [] := by decide

/-- Samples of every kind but a reset while a command is in progress. -/
theorem witness_EngineBecomesReady :
    (busy (st 0#16 false 0#16)).eng.wasReset = true ∧ Safety.noReset [commandSample 0x3000#16, idleSample] = true ∧
      [commandSample 0x3000#16, idleSample].length = (busy (st 0#16 false 0#16)).edgesToReady ∧
      seenClocked ((busy (stWith 0xFFFF#16 false 0#16 [commandSample 0x3000#16, idleSample])).edges params 2) =
        some ((0x807E#16, false, 0#16), true) := by decide

/-- The edge before the latency has passed and the edge at which it has. -/
theorem witness_LatencyIsExact :
    latencyOf params 0x2001#16 = 2 ∧ 1 ≤ latencyOf params 0x2001#16 ∧ 2 ≤ latencyOf params 0x2001#16 ∧
      (clocked (st 0xFFFF#16 false 0#16)).idle = true ∧
      (stWith 0xFFFF#16 false 0#16 [commandSample 0x2001#16, idleSample, idleSample]).inputs =
        commandSample 0x2001#16 :: (List.replicate (latencyOf params 0x2001#16) idleSample ++ []) := by decide

theorem witness_EveryLatencyGivesTheSameRun :
    (clocked (stWith 0xFFFF#16 false 0#16 (pacedSamples params [0x2001#16, 0x3000#16]))).idle = true ∧
      (pacedSamples params [0x2001#16, 0x3000#16]).length = 5 ∧
      (stWith 0xFFFF#16 false 0#16 (pacedSamples params [0x2001#16, 0x3000#16])).inputs =
        pacedSamples params [0x2001#16, 0x3000#16] ++ [] := by decide

/-- The valid window, and both ways out of it. -/
theorem witness_OutputsInTheValidWindow :
    (clocked (st 0#16 false 0#16)).eng.wasReset = true ∧
      (clocked (st 0#16 false 0#16)).cmdReady false = true ∧ (clocked (st 0#16 false 0#16)).cmdReady true = false ∧
      (busy (st 0#16 false 0#16)).cmdReady false = false := by decide

end Sys2Proof.Tests
end

/-! The decoder's answers for the words that the statements about the registers speak of (30_encoding.md R45, R46). -/

namespace Sys2Proof

theorem decode_encode_feed (b : Byte) : decode (encode (.feed b)) = .instr (.feed b) := by
  revert b; decide

/-- INIT is the only word that decodes to INIT. -/
theorem eq_initWord_of_decode {w : Word} (h : decode w = .instr .init) : w = 0x1000#16 := by
  rcases decode_cases w with ⟨-, e⟩ | ⟨hw, -⟩ | ⟨-, -, e⟩ | e
  · rw [e] at h; cases h
  · exact hw
  · rw [e] at h; cases h
  · rw [e] at h; cases h

theorem illegalWord_of_instr {w : Word} {i : Instr} (h : decode w = .instr i) :
    Safety.illegalWord w = false := by
  simp [Safety.illegalWord, h]

theorem illegalWord_of_illegal {w v : Word} {kind : IllegalKind} (h : decode w = .illegal kind v) :
    Safety.illegalWord w = true := by
  simp [Safety.illegalWord, h]

end Sys2Proof

namespace Sys2Proof.Machine

/-! The three byte steps are equal, so IMPL does not change what a word does (40_crc_arithmetic.md R53 to R57). -/

/-- The nibble table is four bit steps of its index (40_crc_arithmetic.md R53). -/
theorem t16_eq_bitsteps (n : Nibble) : t16 n = bitsteps 4 (zextNibble n) := by
  revert n; decide

/-- The byte table is eight bit steps of its index (40_crc_arithmetic.md R57). -/
theorem t256_eq_bitsteps (i : Byte) : t256 i = bitsteps 8 (zextByte i) := by
  revert i; decide

/-- `k` bit steps shift the word and fold in the `k` bits that leave it (40_crc_arithmetic.md R54, R57). -/
theorem bitsteps_eq_shift_xor (k : Nat) (x : Word) :
    bitsteps k x = (x >>> k) ^^^ bitsteps k ((x.setWidth k).setWidth 16) := by
  have hlow : ∀ i < k, (x ^^^ (x.setWidth k).setWidth 16).getLsbD i = false := by
    intro i hi
    by_cases h : i < 16
    · simp [hi, h]
    · exact BitVec.getLsbD_of_ge _ _ (Nat.le_of_not_lt h)
  have hhigh : (x ^^^ (x.setWidth k).setWidth 16) >>> k = x >>> k := by
    ext i hi
    simp
  calc bitsteps k x
      = bitsteps k ((x ^^^ (x.setWidth k).setWidth 16) ^^^ (x.setWidth k).setWidth 16) := by
        rw [BitVec.xor_assoc, BitVec.xor_self, BitVec.xor_zero]
    _ = (x >>> k) ^^^ bitsteps k ((x.setWidth k).setWidth 16) := by
        rw [bitsteps_xor, bitsteps_of_low_clear k _ hlow, hhigh]

/-- A nibble step is four bit steps with the nibble folded in first (40_crc_arithmetic.md R54). -/
theorem nibstep_eq_bitsteps (c : Word) (n : Nibble) : nibstep c n = bitsteps 4 (c ^^^ zextNibble n) := by
  have hindex : ((c ^^^ zextNibble n) &&& 0xF#16).setWidth 4 = (c ^^^ zextNibble n).setWidth 4 := by
    rw [BitVec.setWidth_and]; exact BitVec.and_allOnes
  have hshift : (c ^^^ zextNibble n) >>> 4 = c >>> 4 := by
    ext i hi; simp [zextNibble]
  rw [nibstep, hindex, t16_eq_bitsteps, bitsteps_eq_shift_xor 4 (c ^^^ zextNibble n), hshift, zextNibble]

/-- A byte is its low nibble and its high nibble four bits up. -/
theorem zextByte_eq_nibbles (b : Byte) :
    zextByte b = zextNibble (lowNibble b) ^^^ (zextNibble (highNibble b) <<< 4) := by
  revert b; decide

/-- A nibble four bits up has moved down after four bit steps. -/
theorem bitsteps_nibble_shiftLeft (n : Nibble) : bitsteps 4 (zextNibble n <<< 4) = zextNibble n := by
  revert n; decide

/-- The nibble-table step is the bit-serial step (40_crc_arithmetic.md R56). -/
theorem crcStep_eq_stepBits (c : Word) (b : Byte) : crcStep c b = stepBits c b := by
  calc crcStep c b
      = bitsteps 4 (bitsteps 4 (c ^^^ zextNibble (lowNibble b)) ^^^ zextNibble (highNibble b)) := by
        rw [crcStep, nibstep_eq_bitsteps, nibstep_eq_bitsteps]
    _ = bitsteps 4 (bitsteps 4 (c ^^^ zextByte b)) := by
        rw [zextByte_eq_nibbles, ← BitVec.xor_assoc, bitsteps_xor 4 _ (zextNibble (highNibble b) <<< 4),
          bitsteps_nibble_shiftLeft]
    _ = stepBits c b := (bitsteps_add 4 4 _).symm

/-- The byte-table step is the bit-serial step (40_crc_arithmetic.md R57). -/
theorem stepTab_eq_stepBits (c : Word) (b : Byte) : stepTab c b = stepBits c b := by
  have hindex : ((c ^^^ zextByte b) &&& 0xFF#16).setWidth 8 = (c ^^^ zextByte b).setWidth 8 := by
    rw [BitVec.setWidth_and]; exact BitVec.and_allOnes
  have hshift : (c ^^^ zextByte b) >>> 8 = c >>> 8 := by
    ext i hi; simp [zextByte]
  rw [stepTab, hindex, t256_eq_bitsteps, stepBits, bitsteps_eq_shift_xor 8 (c ^^^ zextByte b), hshift, zextByte]

/-- IMPL does not change the byte step (40_crc_arithmetic.md R56). -/
theorem crcStepAs_eq_crcStep (impl : Config.Impl) (c : Word) (b : Byte) : crcStepAs impl c b = crcStep c b := by
  cases impl with
  | bitSerial => exact (crcStep_eq_stepBits c b).symm
  | nibbleTable => rfl
  | byteTable => exact (stepTab_eq_stepBits c b).trans (crcStep_eq_stepBits c b).symm

/-- IMPL does not change what accepting a word does (40_crc_arithmetic.md R56). -/
theorem acceptWordAs_eq_acceptWord (impl : Config.Impl) (w : Word) (s : State) :
    acceptWordAs impl w s = acceptWord w s := by
  unfold acceptWordAs
  split
  next b h =>
    rw [acceptWord_of_instr h, State.foldByteAs, crcStepAs_eq_crcStep]
    rfl
  all_goals rfl

/-! What one word, and words in a row, leave in the registers (10_state.md R12, R14, R15). -/

/-- `acceptWord_cases`, said of the state that the word leaves (41_commands.md R63). -/
theorem applyWord_cases (w : Word) (s : State) :
    (decode w = .instr .nop ∧ s.applyWord w = s) ∨
      (decode w = .instr .init ∧ s.applyWord w = s.loadPreset) ∨
      (∃ b, decode w = .instr (.feed b) ∧ s.applyWord w = s.foldByte b) ∨
      (decode w = .illegal (illegalKind w) w ∧ s.applyWord w = s.raiseIllegal w) := by
  simpa [acceptWord_eq_next] using acceptWord_cases w s

theorem applyWord_init (s : State) : s.applyWord 0x1000#16 = s.loadPreset := rfl

/-- A word adds its illegality to `err` (10_state.md R14). -/
@[simp] theorem applyWord_err (s : State) (w : Word) :
    (s.applyWord w).err = (s.err || Safety.illegalWord w) := by
  rcases applyWord_cases w s with ⟨d, e⟩ | ⟨d, e⟩ | ⟨b, d, e⟩ | ⟨d, e⟩
  · simp [e, illegalWord_of_instr d]
  · simp [e, illegalWord_of_instr d]
  · simp [e, illegalWord_of_instr d]
  · simp [e, illegalWord_of_illegal d]

/-- A word is recorded where it is illegal and nothing has been (10_state.md R15). -/
@[simp] theorem applyWord_errWord (s : State) (w : Word) :
    (s.applyWord w).errWord = if !s.err && Safety.illegalWord w then w else s.errWord := by
  rcases applyWord_cases w s with ⟨d, e⟩ | ⟨d, e⟩ | ⟨b, d, e⟩ | ⟨d, e⟩
  · simp [e, illegalWord_of_instr d]
  · simp [e, illegalWord_of_instr d]
  · simp [e, illegalWord_of_instr d]
  · cases h : s.err <;> simp [e, h, illegalWord_of_illegal d]

/-- A word keeps a consistent error record consistent (10_state.md R14, R15). -/
theorem errorRecordOk_applyWord {s : State} (h : Safety.errorRecordOk s = true) (w : Word) :
    Safety.errorRecordOk (s.applyWord w) = true := by
  cases he : s.err with
  | true => simpa [Safety.errorRecordOk, he] using h
  | false =>
    cases hw : Safety.illegalWord w with
    | true => simp [Safety.errorRecordOk, he, hw]
    | false => simpa [Safety.errorRecordOk, he, hw] using h

@[simp] theorem applyWords_nil (s : State) : s.applyWords [] = s := rfl

@[simp] theorem applyWords_cons (s : State) (w : Word) (ws : List Word) :
    s.applyWords (w :: ws) = (s.applyWord w).applyWords ws := rfl

@[simp] theorem applyWords_append (s : State) (ws vs : List Word) :
    s.applyWords (ws ++ vs) = (s.applyWords ws).applyWords vs := List.foldl_append

@[simp] theorem applyWords_wasReset (s : State) (ws : List Word) : (s.applyWords ws).wasReset = s.wasReset := by
  induction ws generalizing s with
  | nil => rfl
  | cons w ws ih => rw [applyWords_cons, ih, (applyWord_wasReset w s).1]

theorem applyWords_inputs (ws : List Word) (s : State) (ins : List PortSample) :
    State.applyWords { s with inputs := ins } ws = { s.applyWords ws with inputs := ins } := by
  induction ws generalizing s with
  | nil => rfl
  | cons w ws ih => rw [applyWords_cons, applyWord_inputs, ih]; rfl

/-- A list of words adds to `err` whether one of them is illegal (10_state.md R14). -/
theorem applyWords_err (s : State) (ws : List Word) :
    (s.applyWords ws).err = (s.err || ws.any Safety.illegalWord) := by
  induction ws generalizing s with
  | nil => simp
  | cons w ws ih => simp [ih, Bool.or_assoc]

/-- With an error recorded no word changes the record (10_state.md R15). -/
theorem applyWords_errWord_of_err {s : State} (h : s.err = true) (ws : List Word) :
    (s.applyWords ws).errWord = s.errWord := by
  induction ws generalizing s with
  | nil => rfl
  | cons w ws ih => rw [applyWords_cons, ih (by simp [h])]; simp [h]

/-- With no error recorded the first illegal word is recorded (10_state.md R15). -/
theorem applyWords_errWord_of_no_err {s : State} (h : s.err = false) (ws : List Word) :
    (s.applyWords ws).errWord = (ws.find? Safety.illegalWord).getD s.errWord := by
  induction ws generalizing s with
  | nil => rfl
  | cons w ws ih =>
    cases hw : Safety.illegalWord w with
    | true => simp [h, hw, applyWords_errWord_of_err]
    | false => simp [h, hw, ih]

theorem fedBytes_cons_feed {w : Word} {b : Byte} (h : decode w = .instr (.feed b)) (ws : List Word) :
    fedBytes (w :: ws) = b :: fedBytes ws := by
  simp [fedBytes, h]

theorem fedBytes_cons_of_no_feed {w : Word} (h : ∀ b, decode w ≠ .instr (.feed b)) (ws : List Word) :
    fedBytes (w :: ws) = fedBytes ws := by
  rcases decode_cases w with ⟨-, e⟩ | ⟨-, e⟩ | ⟨-, -, e⟩ | e
  · simp [fedBytes, e]
  · simp [fedBytes, e]
  · exact absurd e (h _)
  · simp [fedBytes, e]

/-- Words with no INIT among them fold the bytes they feed into `crc` (10_state.md R12). -/
theorem applyWords_crc_of_no_init (s : State) {ws : List Word} (h : 0x1000#16 ∉ ws) :
    (s.applyWords ws).crc = crcFrom s.crc (fedBytes ws) := by
  induction ws generalizing s with
  | nil => rfl
  | cons w ws ih =>
    obtain ⟨hw, hws⟩ := not_or.mp (mt List.mem_cons.mpr h)
    rw [applyWords_cons, ih _ hws]
    rcases applyWord_cases w s with ⟨d, e⟩ | ⟨d, e⟩ | ⟨b, d, e⟩ | ⟨d, e⟩
    · rw [e, fedBytes_cons_of_no_feed (by simp [d])]
    · exact absurd (eq_initWord_of_decode d).symm hw
    · rw [e, fedBytes_cons_feed d]; rfl
    · rw [e, fedBytes_cons_of_no_feed (by simp [d])]; rfl

/-- The FEED words of a message feed its bytes and hold no INIT (41_commands.md R66). -/
theorem fedBytes_map_feed (f : List Byte) : fedBytes (f.map fun b => encode (.feed b)) = f := by
  induction f with
  | nil => rfl
  | cons b f ih => rw [List.map_cons, fedBytes_cons_feed (decode_encode_feed b), ih]

theorem initWord_not_mem_map_feed (f : List Byte) : 0x1000#16 ∉ f.map fun b => encode (.feed b) := by
  intro h
  obtain ⟨b, -, hb⟩ := List.mem_map.mp h
  have hd := decode_encode_feed b
  rw [hb] at hd
  cases hd

/-! Steps and runs once a reset has taken effect (10_state.md R22; 20_memory.md R37). -/

/-- `step_cases` once a reset has taken effect: a reset, the acceptance of a word, or nothing. -/
theorem step_cases_of_wasReset {s t : State} (hs : s.wasReset = true) (h : step s = .next t) :
    let e := (nextSample s).1
    (e.rst = true ∧ t = { s.resetRegs with inputs := s.inputs.tail }) ∨
      (e.rst = false ∧ e.cmdValid = true ∧ e.setupHold = true ∧
        t = { s.applyWord e.cmdWord with inputs := s.inputs.tail }) ∨
      (e.rst = false ∧ e.cmdValid = false ∧ t = { s with inputs := s.inputs.tail }) := by
  rcases step_cases h with hreset | ⟨-, hw, -⟩ | ⟨hr, -, haccept⟩ | ⟨hr, -, hnothing⟩
  · exact .inl hreset
  · rw [hs] at hw; cases hw
  · exact .inr (.inl ⟨hr, haccept⟩)
  · exact .inr (.inr ⟨hr, hnothing⟩)

/-- A reset that has taken effect stays so (70_reset_and_hazards.md R96). -/
theorem step_keeps_wasReset {s t : State} (h : step s = .next t) (hs : s.wasReset = true) : t.wasReset = true := by
  rcases step_cases_of_wasReset hs h with ⟨-, rfl⟩ | ⟨-, -, -, rfl⟩ | ⟨-, -, rfl⟩
  · rfl
  · exact (applyWord_wasReset _ s).1.trans hs
  · exact hs

theorem runSteps_succ_next {n : Nat} {s t : State} (h : runSteps (n + 1) s = .next t) :
    ∃ u, step s = .next u ∧ runSteps n u = .next t := by
  rw [runSteps] at h
  cases hu : step s with
  | next u => rw [hu] at h; exact ⟨u, rfl, h⟩
  | fault f => rw [hu] at h; cases h
  | refused r => rw [hu] at h; cases h

theorem acceptedWords_append (es fs : List PortSample) :
    acceptedWords (es ++ fs) = acceptedWords es ++ acceptedWords fs := by
  simp [acceptedWords]

/-- A step without a reset applies the word its sample gets accepted, if any (10_state.md R22). -/
theorem step_eq_applyWords {s t : State} {e : PortSample} {rest : List PortSample} (hs : s.wasReset = true)
    (hi : s.inputs = e :: rest) (hr : e.rst = false) (h : step s = .next t) :
    t = { s.applyWords (acceptedWords [e]) with inputs := rest } := by
  have hcases := step_cases_of_wasReset hs h
  rw [nextSample_cons hi, hi, List.tail_cons] at hcases
  dsimp only at hcases
  rcases hcases with ⟨hr', -⟩ | ⟨-, hv, hh, rfl⟩ | ⟨-, hv, rfl⟩
  · rw [hr] at hr'; cases hr'
  · have hword : acceptedWords [e] = [e.cmdWord] := by simp [acceptedWords, hr, hv, hh]
    rw [hword]; rfl
  · have hword : acceptedWords [e] = [] := by simp [acceptedWords, hv]
    rw [hword]; rfl

/-- A run without a reset is the acceptance of its words in order (20_memory.md R37). -/
theorem runSteps_eq_applyWords {es rest : List PortSample} {s t : State} (hs : s.wasReset = true)
    (hi : s.inputs = es ++ rest) (hno : Safety.noReset es = true) (h : runSteps es.length s = .next t) :
    t = { s.applyWords (acceptedWords es) with inputs := rest } := by
  induction es generalizing s with
  | nil =>
    cases h
    obtain rfl : t.inputs = rest := hi
    rfl
  | cons e es ih =>
    obtain ⟨u, hu, hrun⟩ := runSteps_succ_next h
    obtain ⟨hr, hno⟩ : e.rst = false ∧ Safety.noReset es = true := by simpa [Safety.noReset] using hno
    obtain rfl := step_eq_applyWords hs hi hr hu
    have hwords : acceptedWords (e :: es) = acceptedWords [e] ++ acceptedWords es := acceptedWords_append [e] es
    rw [ih (by simpa using hs) rfl hno hrun, hwords, applyWords_append, applyWords_inputs]

/-! Edges of the clock level against steps of the command level (10_state.md R20, R22; 70_reset_and_hazards.md R93, R96,
R102). -/

theorem settled_of_none {c : Clocked} (h : c.inFlight = none) : c.settled = c.eng := by
  simp [Clocked.settled, h]

theorem settled_of_some {c : Clocked} {q : InFlight} (h : c.inFlight = some q) :
    c.settled = c.eng.applyWord q.word := by
  simp [Clocked.settled, h]

theorem idle_iff (c : Clocked) :
    c.idle = true ↔ c.eng.wasReset = true ∧ c.inFlight = none ∧ c.settle = 0 := by
  simp [Clocked.idle, and_assoc]

@[simp] theorem settled_wasReset (c : Clocked) : c.settled.wasReset = c.eng.wasReset := by
  cases h : c.inFlight with
  | none => rw [settled_of_none h]
  | some q => rw [settled_of_some h, (applyWord_wasReset q.word c.eng).1]

@[simp] theorem settled_inputs (c : Clocked) : c.settled.inputs = c.eng.inputs := by
  cases h : c.inFlight with
  | none => rw [settled_of_none h]
  | some q => rw [settled_of_some h]; exact (congrArg State.inputs (applyWord_inputs q.word c.eng c.eng.inputs) :)

@[simp] theorem settled_draws (c : Clocked) : c.settled.draws = c.eng.draws := by
  cases h : c.inFlight with
  | none => rw [settled_of_none h]
  | some q => rw [settled_of_some h, (applyWord_wasReset q.word c.eng).2]

/-- The next sample has been taken off the ports of a clock-level engine whose `rst` has been held for `held` edges. -/
def Clocked.taken (held : Nat) (c : Clocked) : Clocked :=
  { c with eng := { c.eng with inputs := c.eng.inputs.tail }, held := held }

/-- The command in progress does not read or write what the host drives next. -/
theorem settled_taken (held : Nat) (c : Clocked) :
    (c.taken held).settled = { c.settled with inputs := c.eng.inputs.tail } := by
  unfold Clocked.settled Clocked.taken
  cases c.inFlight with
  | none => rfl
  | some q => exact applyWord_inputs q.word c.eng _

theorem edge_of_rst {p : Config.Params} {c : Clocked} (hr : (nextSample c.eng).1.rst = true) :
    c.edge p = .next ((c.taken c.held).underReset p (c.held + 1)) := by
  simp [Clocked.edge, hr, Clocked.taken, nextSample_snd]

theorem edge_of_running {p : Config.Params} {c : Clocked} (hr : (nextSample c.eng).1.rst = false)
    (hw : c.eng.wasReset = true) : c.edge p = Clocked.running p (nextSample c.eng).1 (c.taken 0) := by
  simp [Clocked.edge, hr, hw, Clocked.taken, nextSample_snd]

theorem edge_of_beforeReset {p : Config.Params} {c : Clocked} (hr : (nextSample c.eng).1.rst = false)
    (hw : c.eng.wasReset = false) : c.edge p = Clocked.beforeReset (nextSample c.eng).1 (c.taken 0) := by
  simp [Clocked.edge, hr, hw, Clocked.taken, nextSample_snd]

theorem commit_eq (p : Config.Params) (w : Word) (c : Clocked) :
    c.commit p w = .next { c with eng := c.eng.applyWord w, inFlight := none } := by
  simp [Clocked.commit, acceptWordAs_eq_acceptWord, acceptWord_eq_next]

/-- An accepted word is in the settled state, whatever its latency (20_memory.md R33). -/
theorem accept_settled (p : Config.Params) (w : Word) (c : Clocked) :
    ∃ d, c.accept p w = .next d ∧ d.settled = c.eng.applyWord w := by
  unfold Clocked.accept
  split
  · exact ⟨_, commit_eq p w c, rfl⟩
  · exact ⟨_, rfl, rfl⟩

/-- A ready engine meets a sample as the command level does (10_state.md R22). -/
theorem running_of_idle {p : Config.Params} {e : PortSample} {c d : Clocked} (hi : c.idle = true)
    (hr : e.rst = false) (h : Clocked.running p e c = .next d) : takeSample e c.eng = .next d.settled := by
  obtain ⟨hw, hf, hs⟩ := (idle_iff c).mp hi
  rcases takeSample_cases e c.eng with ⟨hr', -⟩ | ⟨-, hv, hh, -⟩ | ⟨-, hw', -⟩ | ⟨-, -, hv, hh, ht⟩ | ⟨-, -, hv, ht⟩
  · simp [hr] at hr'
  · simp [Clocked.running, hf, hs, hv, hh] at h
  · simp [hw] at hw'
  · obtain ⟨d', hd', hset⟩ := accept_settled p e.cmdWord c
    obtain rfl : d' = d := by simpa [Clocked.running, hf, hs, hv, hh, hd'] using h
    rw [ht, hset]
  · obtain rfl : c = d := by simpa [Clocked.running, hf, hs, hv] using h
    rw [ht, settled_of_none hf]

/-- An engine that is not ready goes on with its command in progress, then with its ready delay, and neither changes the
settled state. -/
theorem running_of_not_ready {p : Config.Params} {e : PortSample} {c d : Clocked}
    (hn : c.inFlight = none → c.settle ≠ 0) (h : Clocked.running p e c = .next d) : d.settled = c.settled := by
  unfold Clocked.running at h
  cases hf : c.inFlight with
  | some q =>
    simp only [hf, commit_eq] at h
    rw [settled_of_some hf]
    split at h <;> cases h <;> rfl
  | none =>
    simp only [hf, hn hf, ne_eq, not_false_eq_true, if_true] at h
    cases h
    simp [Clocked.settled, hf]

/-- Reset overwrites whatever the command in progress would have written (70_reset_and_hazards.md R93). -/
theorem settled_resetRegs (c : Clocked) : c.settled.resetRegs = c.eng.resetRegs := by
  simp [State.resetRegs]

/-- An unspecified engine does not show the command that was in progress (70_reset_and_hazards.md R96). -/
theorem settled_unspecified (c : Clocked) : c.settled.unspecified = c.eng.unspecified := by
  simp [State.unspecified]

/-- Before the first reset an edge with `rst` = 0 is a command-level step, and leaves an unspecified engine
(70_reset_and_hazards.md R96). -/
theorem beforeReset_refines {e : PortSample} {c d : Clocked} (hr : e.rst = false) (hw : c.eng.wasReset = false)
    (h : Clocked.beforeReset e c = .next d) :
    takeSample e c.settled = .next d.settled ∧ d = { c with eng := c.eng.unspecified, inFlight := none } := by
  have htake : takeSample e c.settled = sampleBeforeReset e c.settled := by simp [takeSample, hr, hw]
  rcases sampleBeforeReset_cases e c.eng with ⟨-, -, hb⟩ | ⟨hvalid, hb⟩
  · simp [Clocked.beforeReset, hb] at h
  · obtain rfl : { c with eng := c.eng.unspecified, inFlight := none } = d := by
      simpa [Clocked.beforeReset, hb] using h
    rcases sampleBeforeReset_cases e c.settled with ⟨hv, hh, -⟩ | ⟨-, hb'⟩
    · rw [hvalid hv] at hh; cases hh
    · exact ⟨by rw [htake, hb', settled_unspecified, settled_of_none rfl], rfl⟩

/-- A word whose latency is 0 is in the state at the accepting edge (10_state.md R22). -/
theorem running_of_idle_zero_latency {p : Config.Params} {e : PortSample} {c : Clocked} {t : State}
    (hlat : latencyOf p e.cmdWord = 0) (hi : c.idle = true) (hr : e.rst = false)
    (h : takeSample e c.eng = .next t) : Clocked.running p e c = .next { c with eng := t } := by
  obtain ⟨hw, hf, hs⟩ := (idle_iff c).mp hi
  rcases takeSample_cases e c.eng with ⟨hr', -⟩ | ⟨-, -, -, ht⟩ | ⟨-, hw', -⟩ | ⟨-, -, hv, hh, ht⟩ | ⟨-, -, hv, ht⟩
  · simp [hr] at hr'
  · rw [ht] at h; cases h
  · simp [hw] at hw'
  · rw [ht] at h; cases h
    simp [Clocked.running, hf, hs, hv, hh, Clocked.accept, hlat, commit_eq]
  · rw [ht] at h; cases h
    have hstay : Clocked.running p e c = .next c := by simp [Clocked.running, hf, hs, hv]
    exact hstay

theorem latencyOf_eq_zero {p : Config.Params} (hn : p.latNop = 0) (hi : p.latInit = 0) (hf : p.latFeed = 0)
    (hx : p.latIllegal = 0) (w : Word) : latencyOf p w = 0 := by
  unfold latencyOf
  split <;> assumption

/-! The statements about the state (10_state.md). -/

/-- Settles O23, by the kinds of step: a reset clears the record, a word keeps it consistent, and a step before the first
reset promises nothing. -/
theorem errorRecordKeptByEveryStep : Obligations.ErrorRecordKeptByEveryStep := by
  unfold Obligations.ErrorRecordKeptByEveryStep
  intro s t hs h
  refine ⟨fun ht => ?_, step_keeps_wasReset h⟩
  rcases step_cases h with ⟨-, rfl⟩ | ⟨-, -, rfl⟩ | ⟨-, hw, -, -, rfl⟩ | ⟨-, hw, -, rfl⟩
  · rfl
  · cases ht
  · exact errorRecordOk_applyWord (hs hw) _
  · exact hs hw

/-- Settles O15: by the kinds of step and of word; the meaning of `crc` is `applyWords_crc_of_no_init` from the preset. -/
theorem crcWritersAndMeaning : Obligations.CrcWritersAndMeaning := by
  unfold Obligations.CrcWritersAndMeaning
  refine ⟨fun s t hs h hne => ?_, fun s hs => by rw [State.outputs_of_wasReset hs],
    fun s before since hno => ⟨?_, applyWords_crc_of_no_init _ hno⟩⟩
  · rcases step_cases_of_wasReset hs h with ⟨hr, rfl⟩ | ⟨hr, hv, -, rfl⟩ | ⟨-, -, rfl⟩
    · exact .inl ⟨hr, rfl⟩
    · rcases applyWord_cases (nextSample s).1.cmdWord s with ⟨d, e⟩ | ⟨d, e⟩ | ⟨b, d, e⟩ | ⟨d, e⟩
      · exact absurd (congrArg State.crc e) hne
      · exact .inr (.inl ⟨hr, hv, d, congrArg State.crc e⟩)
      · exact .inr (.inr ⟨hr, hv, b, d, congrArg State.crc e⟩)
      · exact absurd (congrArg State.crc e) hne
    · exact absurd rfl hne
  · rw [applyWords_append, applyWords_cons, applyWord_init, applyWords_crc_of_no_init _ hno]
    rfl

/-- Settles O20: a word adds its illegality to `err` (`applyWord_err`), and only a reset takes anything away. -/
theorem errIsSticky : Obligations.ErrIsSticky := by
  unfold Obligations.ErrIsSticky
  refine ⟨fun s t h => ?_, fun i s => ?_, fun s hs => by rw [State.outputs_of_wasReset hs]⟩
  · rcases step_cases h with ⟨hr, rfl⟩ | ⟨hr, hw, rfl⟩ | ⟨hr, hw, hv, -, rfl⟩ | ⟨hr, hw, hv, rfl⟩
    · simp [hr]
    · simp [hr, hw]
    · simp +contextual [hr, hw, hv]
    · simp +contextual [hr, hw, hv]
  · cases i with
    | nop => exact ⟨s, rfl, rfl⟩
    | init => exact ⟨s.loadPreset, rfl, rfl⟩
    | feed b => exact ⟨s.foldByte b, rfl, rfl⟩

/-- Settles O21: a run without a reset is the acceptance of its words (`runSteps_eq_applyWords`), which record the first
illegal one. -/
theorem errWordIsFirstIllegalWord : Obligations.ErrWordIsFirstIllegalWord := by
  unfold Obligations.ErrWordIsFirstIllegalWord
  refine ⟨fun s t hs h hne => ?_, fun es rest s t hs hi hno he h => ?_, fun es rest t hno h => ?_,
    fun s hs => by rw [State.outputs_of_wasReset hs]⟩
  · rcases step_cases_of_wasReset hs h with ⟨hr, rfl⟩ | ⟨hr, hv, -, rfl⟩ | ⟨-, -, rfl⟩
    · exact .inl ⟨hr, rfl⟩
    · have hrec := applyWord_errWord s (nextSample s).1.cmdWord
      split at hrec
      next hill =>
        obtain ⟨he, hw⟩ : s.err = false ∧ Safety.illegalWord (nextSample s).1.cmdWord = true := by simpa using hill
        exact .inr ⟨hr, hv, hw, he, hrec⟩
      next => exact absurd hrec hne
    · exact absurd rfl hne
  · obtain rfl := runSteps_eq_applyWords hs hi hno h
    exact ⟨by simp [applyWords_err, he], applyWords_errWord_of_no_err he _⟩
  · obtain rfl := runSteps_eq_applyWords (s := { State.reset with inputs := es ++ rest }) rfl rfl hno h
    constructor
    · rintro ⟨-, he⟩
      simpa [applyWords_err, State.reset] using he
    · intro hall
      have hany : (acceptedWords es).any Safety.illegalWord = false := by simpa using hall
      have hfind : (acceptedWords es).find? Safety.illegalWord = none := by simpa using hall
      exact ⟨by simp [applyWords_errWord_of_no_err, hfind, State.reset],
        by simp [applyWords_err, hany, State.reset]⟩

/-- Settles O44: INIT loads the preset and the FEED words of the frame fold its bytes. -/
theorem crcZeroIsTheVerdict : Obligations.CrcZeroIsTheVerdict := by
  unfold Obligations.CrcZeroIsTheVerdict
  refine ⟨fun s => ⟨fun hs => by rw [State.outputs_of_wasReset hs], s.crcZero_eq_true⟩, fun s f => ?_⟩
  have hcrc : (s.applyWords (encode .init :: f.map fun b => encode (.feed b))).crc = checksum f := by
    rw [applyWords_cons, applyWords_crc_of_no_init _ (initWord_not_mem_map_feed f), fedBytes_map_feed]
    rfl
  rw [State.crcZero, hcrc, validate]

/-- Settles O50: the step of engine `k` sets entry `k` of the list and no other. -/
theorem instancesShareNoState : Obligations.InstancesShareNoState := by
  unfold Obligations.InstancesShareNoState
  intro k engines engines' h
  unfold stepInstance at h
  cases hk : engines[k]? with
  | none =>
    rw [hk] at h
    cases h
    exact ⟨rfl, fun _ _ => rfl, nofun⟩
  | some s =>
    rw [hk] at h
    cases ht : step s with
    | next t =>
      simp only [ht] at h
      cases h
      refine ⟨List.length_set, fun j hj => List.getElem?_set_ne hj.symm, fun s' hs' => ?_⟩
      cases hs'
      exact ⟨t, ht, by simp [List.getElem?_set_self', hk]⟩
    | fault f => simp [ht] at h
    | refused r => simp [ht] at h

/-- Settles O51, by the kinds of edge: under reset, ready, not ready, and before the first reset. -/
theorem clockEdgeRefinesStep : Obligations.ClockEdgeRefinesStep := by
  unfold Obligations.ClockEdgeRefinesStep
  intro p c d h
  dsimp only
  refine ⟨fun hr hheld => ?_, fun hr hi => ?_, fun hr hw hi => ?_, fun hr hshort => ?_, fun hr hw => ?_⟩
  · rw [edge_of_rst hr] at h
    cases h
    rw [← settled_taken c.held, settled_resetRegs, settled_of_none rfl, underReset_of_held _ hheld]
  · obtain ⟨hw, hf, hs⟩ := (idle_iff c).mp hi
    rw [edge_of_running hr hw] at h
    rw [settled_of_none hf]
    exact running_of_idle (c := c.taken 0) hi hr h
  · rw [edge_of_running hr hw] at h
    rw [running_of_not_ready (fun hf hs => ?_) h, settled_taken]
    rw [(idle_iff c).mpr ⟨hw, hf, hs⟩] at hi
    cases hi
  · rw [edge_of_rst hr] at h
    cases h
    rw [underReset_of_short _ hshort]
    exact ⟨rfl, rfl, rfl⟩
  · rw [edge_of_beforeReset hr hw] at h
    obtain ⟨hstep, rfl⟩ := beforeReset_refines (c := c.taken 0) hr hw h
    exact ⟨by rw [← settled_taken 0, hstep], rfl, rfl, rfl⟩

/-- Settles O52: a reset takes effect at its first edge, and a word is in the state at its accepting edge. -/
theorem zeroLatencyEdgeIsStep : Obligations.ZeroLatencyEdgeIsStep := by
  unfold Obligations.ZeroLatencyEdgeIsStep
  intro p c t hnop hinit hfeed hill hdelay hhold hidle h
  obtain ⟨hw, hf, hs⟩ := (idle_iff c).mp hidle
  have ht : t.wasReset = true := step_keeps_wasReset h hw
  rw [step, nextSample_snd] at h
  cases hr : (nextSample c.eng).1.rst with
  | true =>
    obtain rfl : (c.taken c.held).eng.resetRegs = t := by simpa [takeSample, hr, Clocked.taken] using h
    have heng : ((c.taken c.held).underReset p (c.held + 1)).eng = (c.taken c.held).eng.resetRegs :=
      underReset_of_held _ (by omega)
    exact ⟨_, edge_of_rst hr, heng, (idle_iff _).mpr ⟨heng ▸ ht, rfl, hdelay⟩⟩
  | false =>
    have hlat := latencyOf_eq_zero hnop hinit hfeed hill (nextSample c.eng).1.cmdWord
    refine ⟨_, (edge_of_running hr hw).trans (running_of_idle_zero_latency hlat hidle hr h), rfl, ?_⟩
    exact (idle_iff _).mpr ⟨ht, hf, hs⟩

/-- Settles O13: such a sample, offered or not, has neither `rst` nor `cmd_valid`. -/
theorem nothingOfferedNothingChanges : Obligations.NothingOfferedNothingChanges := by
  unfold Obligations.NothingOfferedNothingChanges
  refine ⟨fun s hs hi => ?_, fun s e rest hs hi hr hv => ?_⟩
  · simp [step, nextSample_nil hi, takeSample, hs]
  · simp [step, nextSample_cons hi, takeSample, hs, hr, hv]

/-- Settles O24, by the reset values. -/
theorem errorRecordHoldsAtReset : Obligations.ErrorRecordHoldsAtReset := ⟨rfl, rfl⟩

/-- Settles O26, by the reset values; the ports carry them since a reset has taken effect. -/
theorem valuesAfterReset : Obligations.ValuesAfterReset :=
  ⟨rfl, rfl, rfl, State.outputs_of_wasReset rfl⟩

/-- Settles O57: the valid window is the idle engine's, and sampling writes at most the draw counter. -/
theorem outputsInTheValidWindow : Obligations.OutputsInTheValidWindow := by
  unfold Obligations.OutputsInTheValidWindow
  refine ⟨fun rst c hw hready => ?_, fun rst c d hd => ?_, fun s => ?_⟩
  · obtain ⟨rfl, hidle⟩ : rst = false ∧ c.idle = true := by simpa [Clocked.cmdReady, hw] using hready
    rw [sample_of_idle hidle, State.outputs_of_wasReset hw]
    rfl
  · rcases hd with rfl | rfl
    · unfold Clocked.sample
      split <;> exact ⟨rfl, rfl, rfl, rfl, rfl, rfl⟩
    · unfold Clocked.sampleReady
      dsimp only
      split <;> exact ⟨rfl, rfl, rfl, rfl, rfl, rfl⟩
  · unfold State.sample
    dsimp only
    split <;> exact ⟨rfl, rfl, rfl⟩

end Sys2Proof.Machine

/-! The order in which samples and bits are taken, and commands given twice (20_memory.md R28, R29, R34, R37). -/

namespace Sys2Proof.Machine

theorem timed_cons {e : PortSample} {es : List PortSample} :
    Safety.timed (e :: es) = true ↔
      (e.rst = false → e.cmdValid = true → e.setupHold = true) ∧ Safety.timed es = true := by
  simp only [Safety.timed, List.all_cons, Bool.and_eq_true]
  cases e.rst <;> cases e.cmdValid <;> simp

/-- A sample that is in time has a step (42_host_procedures.md R76). -/
theorem exists_takeSample_eq_next {e : PortSample} (he : e.rst = false → e.cmdValid = true → e.setupHold = true)
    (s : State) : ∃ t, takeSample e s = .next t := by
  rcases takeSample_cases e s with ⟨-, h⟩ | ⟨hr, hv, hh, -⟩ | ⟨-, -, -, h⟩ | ⟨-, -, -, -, h⟩ | ⟨-, -, -, h⟩
  · exact ⟨_, h⟩
  · rw [he hr hv] at hh; cases hh
  · exact ⟨_, h⟩
  · exact ⟨_, h⟩
  · exact ⟨_, h⟩

/-- Every step takes one sample off the port. -/
theorem step_inputs {s t : State} (h : step s = .next t) : t.inputs = s.inputs.tail := by
  rcases step_cases h with ⟨-, rfl⟩ | ⟨-, -, rfl⟩ | ⟨-, -, -, -, rfl⟩ | ⟨-, -, -, rfl⟩ <;> rfl

/-- Samples that are in time are all taken: the run is not refused. -/
theorem exists_runSteps_eq_next {es rest : List PortSample} {s : State} (hi : s.inputs = es ++ rest)
    (htimed : Safety.timed es = true) : ∃ t, runSteps es.length s = .next t := by
  induction es generalizing s with
  | nil => exact ⟨s, rfl⟩
  | cons e es ih =>
    obtain ⟨he, hes⟩ := timed_cons.mp htimed
    obtain ⟨u, hu⟩ : ∃ u, step s = .next u := by
      rw [step, nextSample_cons hi]
      exact exists_takeSample_eq_next he _
    obtain ⟨t, ht⟩ := ih (s := u) (by rw [step_inputs hu, hi]; rfl) hes
    exact ⟨t, by rw [List.length_cons, runSteps, hu]; exact ht⟩

/-- One round of 20_memory.md R29: bit `i` of the byte enters bit 0 of the register, which then takes a bit step. -/
def bitRound (b : Byte) (r : Word) (i : Nat) : Word := bitstep (r ^^^ (if b.getLsbD i then 1#16 else 0#16))

/-- A bit step of a byte folds its bit 0 and moves the other bits down. -/
theorem bitstep_zextByte (b : Byte) :
    bitstep (zextByte b) = bitstep (if b.getLsbD 0 then 1#16 else 0#16) ^^^ zextByte (b >>> 1) := by
  revert b; decide

/-- A bit step with the rest of the byte in the register is a round for its next bit, with the rest after that. -/
theorem bitstep_xor_zextByte_shift (b : Byte) (r : Word) (k : Nat) :
    bitstep (r ^^^ zextByte (b >>> k)) = bitRound b r k ^^^ zextByte (b >>> (k + 1)) := by
  have hbit : (b >>> k).getLsbD 0 = b.getLsbD k := by rw [BitVec.getLsbD_ushiftRight, Nat.add_zero]
  rw [bitstep_xor, bitstep_zextByte, hbit, ← BitVec.shiftRight_add, bitRound, bitstep_xor, BitVec.xor_assoc]

/-- The invariant of the rounds: with the bits not yet consumed XORed in, the register is what as many bit steps make of
the whole byte XORed in at the start. -/
theorem bitsteps_eq_foldl_bitRound_xor (c : Word) (b : Byte) (k : Nat) :
    bitsteps k (c ^^^ zextByte b) = (List.range k).foldl (bitRound b) c ^^^ zextByte (b >>> k) := by
  induction k with
  | zero => simp [bitsteps]
  | succ k ih =>
    calc bitsteps (k + 1) (c ^^^ zextByte b)
        = bitstep (bitsteps k (c ^^^ zextByte b)) := bitsteps_add k 1 _
      _ = bitRound b ((List.range k).foldl (bitRound b) c) k ^^^ zextByte (b >>> (k + 1)) := by
          rw [ih, bitstep_xor_zextByte_shift]
      _ = (List.range (k + 1)).foldl (bitRound b) c ^^^ zextByte (b >>> (k + 1)) := by
          rw [List.range_succ, List.foldl_append]; rfl

/-- After eight rounds no bit of the byte is left (20_memory.md R29). -/
theorem crcStep_eq_foldl_bitRound (c : Word) (b : Byte) :
    crcStep c b = (List.range 8).foldl (bitRound b) c := by
  have hrest : zextByte (b >>> 8) = 0#16 := by rw [BitVec.ushiftRight_eq_zero (Nat.le_refl 8)]; rfl
  rw [crcStep_eq_stepBits, stepBits, bitsteps_eq_foldl_bitRound_xor, hrest, BitVec.xor_zero]

theorem exec_nop (s : State) : exec .nop s = .next s := rfl

theorem exec_init (s : State) : exec .init s = .next s.loadPreset := rfl

theorem exec_feed (b : Byte) (s : State) : exec (.feed b) s = .next (s.foldByte b) := rfl

@[simp] theorem State.loadPreset_loadPreset (s : State) : s.loadPreset.loadPreset = s.loadPreset := rfl

/-- Only the first illegal word is recorded (60_exceptions.md R79). -/
@[simp] theorem State.raiseIllegal_raiseIllegal (s : State) (w v : Word) :
    (s.raiseIllegal w).raiseIllegal v = s.raiseIllegal w := rfl

theorem acceptWord_of_illegalWord {w : Word} (h : Safety.illegalWord w = true) (s : State) :
    acceptWord w s = .next (s.raiseIllegal w) := by
  cases hd : decode w with
  | instr i => rw [illegalWord_of_instr hd] at h; cases h
  | illegal kind v => exact acceptWord_of_illegal hd s

/-! The statements about memory and order (20_memory.md). -/

/-- Settles O18: the run is not refused since its commands are in time (`exists_runSteps_eq_next`), and where it ends is
`runSteps_eq_applyWords`. -/
theorem runTakesAcceptedWordsInOrder : Obligations.RunTakesAcceptedWordsInOrder := by
  unfold Obligations.RunTakesAcceptedWordsInOrder
  intro es rest s hs hi hno htimed
  obtain ⟨t, ht⟩ := exists_runSteps_eq_next hi htimed
  rw [ht, runSteps_eq_applyWords hs hi hno ht]

/-- Settles O35: the byte step is eight bit steps of the byte XORed in at the start, and those are the eight rounds. -/
theorem bitsAreConsumedLeastSignificantFirst : Obligations.BitsAreConsumedLeastSignificantFirst :=
  crcStep_eq_foldl_bitRound

/-- Settles O16: the second time finds the value it would write; the byte `0x01` fed twice after reset goes on changing
`crc`. -/
theorem repeatedCommands : Obligations.RepeatedCommands := by
  unfold Obligations.RepeatedCommands
  refine ⟨fun s t h => ?_, fun s t h => ?_, fun w s t hw h => ?_, 0x01#8, State.reset, _, exec_feed _ _, fun h => ?_⟩
  · exact exec_nop t
  · rw [exec_init] at h
    cases h
    rw [exec_init, State.loadPreset_loadPreset]
  · rw [acceptWord_of_illegalWord hw] at h
    cases h
    rw [acceptWord_of_illegalWord hw, State.raiseIllegal_raiseIllegal]
  · rw [exec_feed] at h
    have hcrc : crcStep 0x807E#16 0x01#8 = 0x807E#16 := congrArg State.crc (Host.Outcome.next.inj h)
    exact absurd hcrc (by decide)

/-- Settles O34: FEED folds its byte by `crcStep`, which takes the low nibble first. -/
theorem lowNibbleIsConsumedFirst : Obligations.LowNibbleIsConsumedFirst :=
  ⟨fun s b => exec_feed b s, by decide, by decide⟩

end Sys2Proof.Machine

/-! Words, fields and commands (30_encoding.md R43, R45, R46): a word is its three fields, and the legal words are the
encodings of the commands. -/

namespace Sys2Proof

/-- No bit of a word is outside its fields (30_encoding.md R43). -/
theorem Fields.ofWord_injective : Function.Injective Fields.ofWord := by
  intro w v h
  obtain ⟨hop, hrsv, himm⟩ := Fields.mk.inj h
  have hop := congrArg BitVec.toNat hop
  have hrsv := congrArg BitVec.toNat hrsv
  have himm := congrArg BitVec.toNat himm
  simp only [fieldOp, fieldRsv, fieldImm8, BitVec.extractLsb'_toNat, Nat.shiftRight_eq_div_pow] at hop hrsv himm
  apply BitVec.eq_of_toNat_eq
  omega

/-- The word of a command holds its fields (30_encoding.md R43, R45). -/
theorem ofWord_encode (i : Instr) : Fields.ofWord (encode i) = i.fields := by
  cases i with
  | nop => exact Laws.FieldsEncoded.nop.1
  | init => exact Laws.FieldsEncoded.init.1
  | feed b => exact (Laws.FieldsEncoded.feed b).1

/-- A legal word holds the fields of the command it decodes to. -/
theorem ofWord_of_decode {w : Word} {i : Instr} (h : decode w = .instr i) : Fields.ofWord w = i.fields := by
  rcases decode_cases w with ⟨rfl, e⟩ | ⟨rfl, e⟩ | ⟨hop, hrsv, e⟩ | e
  · rw [e] at h; cases h; rfl
  · rw [e] at h; cases h; rfl
  · rw [e] at h; cases h; rw [Fields.ofWord, hop, hrsv, Instr.fields]
  · rw [e] at h; cases h

theorem decode_encode (i : Instr) : decode (encode i) = .instr i := by
  cases i with
  | nop => exact decode_nop_word
  | init => exact decode_init_word
  | feed b => exact decode_encode_feed b

theorem encode_of_decode {w : Word} {i : Instr} (h : decode w = .instr i) : encode i = w :=
  Fields.ofWord_injective ((ofWord_encode i).trans (ofWord_of_decode h).symm)

/-- The legal words are the encodings of the commands. -/
theorem illegalWord_eq_false_iff (w : Word) : Safety.illegalWord w = false ↔ ∃ i, encode i = w := by
  constructor
  · intro h
    cases hd : decode w with
    | instr i => exact ⟨i, encode_of_decode hd⟩
    | illegal kind v => rw [illegalWord_of_illegal hd] at h; cases h
  · rintro ⟨i, rfl⟩
    exact illegalWord_of_instr (decode_encode i)

theorem exists_decode_of_illegalWord {w : Word} (h : Safety.illegalWord w = true) :
    ∃ kind, decode w = .illegal kind w := by
  cases hd : decode w with
  | instr i => rw [illegalWord_of_instr hd] at h; cases h
  | illegal kind v => rw [decode_illegal_word hd]; exact ⟨kind, rfl⟩

/-- The field values that commands are written with (30_encoding.md R43). -/
theorem exists_fields_eq_iff (f : Fields) :
    (∃ i : Instr, i.fields = f) ↔ f.rsv = 0 ∧ ((f.op = 0 ∧ f.imm8 = 0) ∨ (f.op = 1 ∧ f.imm8 = 0) ∨ f.op = 2) := by
  obtain ⟨op, rsv, imm8⟩ := f
  constructor
  · rintro ⟨_ | _ | b, h⟩
    · cases h; exact ⟨rfl, .inl ⟨rfl, rfl⟩⟩
    · cases h; exact ⟨rfl, .inr (.inl ⟨rfl, rfl⟩)⟩
    · cases h; exact ⟨rfl, .inr (.inr rfl)⟩
  · rintro ⟨rfl, ⟨rfl, rfl⟩ | ⟨rfl, rfl⟩ | rfl⟩
    · exact ⟨.nop, rfl⟩
    · exact ⟨.init, rfl⟩
    · exact ⟨.feed imm8, rfl⟩

/-! The words of the table's rows by number (30_encoding.md R45, R46). -/

theorem toNat_encode_feed (b : Byte) : (encode (.feed b)).toNat = 0x2000 + b.toNat := by
  revert b; decide

/-- Row FEED of the table by number (30_encoding.md R45). -/
theorem and_mask_feed_iff (w : Word) :
    w &&& 0xFF00#16 = 0x2000#16 ↔ 0x2000 ≤ w.toNat ∧ w.toNat ≤ 0x20FF := by
  have hmask : w &&& 0xFF00#16 = w >>> 8 <<< 8 := (BitVec.shiftLeft_ushiftRight (x := w) (n := 8)).symm
  rw [hmask, BitVec.toNat_eq]
  simp only [BitVec.toNat_shiftLeft, BitVec.toNat_ushiftRight, Nat.shiftLeft_eq, Nat.shiftRight_eq_div_pow,
    BitVec.toNat_ofNat]
  omega

theorem eq_encode_feed {w : Word} (h : 0x2000 ≤ w.toNat ∧ w.toNat ≤ 0x20FF) : encode (.feed (w.setWidth 8)) = w := by
  apply BitVec.eq_of_toNat_eq
  rw [toNat_encode_feed, BitVec.toNat_setWidth]
  omega

/-- The legal words by number: the two of NOP and INIT and the 256 of FEED (30_encoding.md R45). -/
theorem illegalWord_eq_false_iff_toNat (w : Word) :
    Safety.illegalWord w = false ↔ w.toNat = 0 ∨ w.toNat = 0x1000 ∨ (0x2000 ≤ w.toNat ∧ w.toNat ≤ 0x20FF) := by
  rw [illegalWord_eq_false_iff]
  constructor
  · rintro ⟨_ | _ | b, rfl⟩
    · exact .inl rfl
    · exact .inr (.inl rfl)
    · rw [toNat_encode_feed]; omega
  · rintro (h | h | h)
    · exact ⟨.nop, BitVec.eq_of_toNat_eq h.symm⟩
    · exact ⟨.init, BitVec.eq_of_toNat_eq h.symm⟩
    · exact ⟨_, eq_encode_feed h⟩

/-- The numbers of the legal words. -/
def legalNumbers : Finset Nat := {0, 0x1000} ∪ Finset.Icc 0x2000 0x20FF

theorem mem_legalNumbers (n : Nat) : n ∈ legalNumbers ↔ n = 0 ∨ n = 0x1000 ∨ (0x2000 ≤ n ∧ n ≤ 0x20FF) := by
  simp [legalNumbers]

theorem card_legalNumbers : legalNumbers.card = 258 := by
  have hdisjoint : Disjoint ({0, 0x1000} : Finset Nat) (Finset.Icc 0x2000 0x20FF) := by
    rw [Finset.disjoint_left]
    intro n hn
    have : n = 0 ∨ n = 0x1000 := by simpa using hn
    rw [Finset.mem_Icc]
    omega
  rw [legalNumbers, Finset.card_union_of_disjoint hdisjoint, Nat.card_Icc]
  rfl

/-- 65 278 of the 65 536 words are illegal (30_encoding.md R46). -/
theorem countP_illegalWord :
    ((List.range 65536).countP fun n => Safety.illegalWord (BitVec.ofNat 16 n)) = 65278 := by
  have hillegal : (Finset.range 65536).filter (fun n => Safety.illegalWord (BitVec.ofNat 16 n) = true)
      = Finset.range 65536 \ legalNumbers := by
    ext n
    rw [Finset.mem_filter, Finset.mem_sdiff, mem_legalNumbers]
    refine and_congr_right fun hn => ?_
    have hval : (BitVec.ofNat 16 n).toNat = n := Nat.mod_eq_of_lt (Finset.mem_range.mp hn)
    rw [← Bool.not_eq_false, illegalWord_eq_false_iff_toNat, hval]
  have hlegal : legalNumbers ⊆ Finset.range 65536 := by
    intro n hn
    rw [mem_legalNumbers] at hn
    rw [Finset.mem_range]
    omega
  calc ((List.range 65536).countP fun n => Safety.illegalWord (BitVec.ofNat 16 n))
      = ((Finset.range 65536).filter (fun n => Safety.illegalWord (BitVec.ofNat 16 n) = true)).card := by
        rw [← Nat.count_eq_card_filter_range, Nat.count]; simp
    _ = 65278 := by
        rw [hillegal, Finset.card_sdiff_of_subset hlegal, Finset.card_range, card_legalNumbers]

end Sys2Proof

namespace Sys2Proof.Machine

/-! The words of the pseudo-instructions and what they leave (30_encoding.md R49). -/

theorem pseudoWords_checksum (bs : List Byte) :
    pseudoWords (.checksum bs) = encode .init :: pseudoWords (.feeds bs) := rfl

theorem pseudoWords_validate (f : List Byte) : pseudoWords (.validate f) = pseudoWords (.checksum f) := rfl

theorem pseudoWords_feeds (bs : List Byte) : pseudoWords (.feeds bs) = bs.map fun b => encode (.feed b) :=
  List.map_map

@[simp] theorem length_pseudoWords_feeds (bs : List Byte) : (pseudoWords (.feeds bs)).length = bs.length := by
  rw [pseudoWords_feeds, List.length_map]

@[simp] theorem length_pseudoWords_checksum (bs : List Byte) :
    (pseudoWords (.checksum bs)).length = bs.length + 1 := by
  rw [pseudoWords_checksum, List.length_cons, length_pseudoWords_feeds]

theorem applyWord_encode_feed (s : State) (b : Byte) : s.applyWord (encode (.feed b)) = s.foldByte b := by
  rw [State.applyWord, acceptWord_of_instr (decode_encode_feed b), exec_feed]

/-- FEEDS folds its bytes into `crc` and writes nothing else. -/
theorem applyWords_feeds (s : State) (bs : List Byte) :
    s.applyWords (pseudoWords (.feeds bs)) = { s with crc := crcFrom s.crc bs } := by
  rw [pseudoWords_feeds]
  induction bs generalizing s with
  | nil => rfl
  | cons b bs ih => rw [List.map_cons, applyWords_cons, applyWord_encode_feed, ih]; rfl

/-- CHECKSUM leaves the checksum in `crc` and writes nothing else. -/
theorem applyWords_checksum (s : State) (bs : List Byte) :
    s.applyWords (pseudoWords (.checksum bs)) = { s with crc := checksum bs } := by
  rw [pseudoWords_checksum, applyWords_cons, applyWords_feeds]
  rfl

@[simp] theorem acceptedWords_commandSamples (ws : List Word) : acceptedWords (commandSamples ws) = ws := by
  induction ws with
  | nil => rfl
  | cons w ws ih =>
    calc acceptedWords (commandSamples (w :: ws))
        = acceptedWords [commandSample w] ++ acceptedWords (commandSamples ws) := acceptedWords_append [_] _
      _ = w :: ws := by rw [ih]; rfl

/-- A host that offers a list of commands gets them applied in order (20_memory.md R37). -/
theorem runSteps_commandSamples {s : State} {ws : List Word} {rest : List PortSample} (hs : s.wasReset = true)
    (hi : s.inputs = commandSamples ws ++ rest) :
    runSteps ws.length s = .next { s.applyWords ws with inputs := rest } := by
  have hno : Safety.noReset (commandSamples ws) = true := by simp [Safety.noReset, commandSamples]
  have htimed : Safety.timed (commandSamples ws) = true := by simp [Safety.timed, commandSamples]
  have hlength : (commandSamples ws).length = ws.length := List.length_map _
  have hrun := runTakesAcceptedWordsInOrder (commandSamples ws) rest s hs hi hno htimed
  rwa [acceptedWords_commandSamples, hlength] at hrun

theorem runSteps_checksum {s : State} {bs : List Byte} {rest : List PortSample} (hs : s.wasReset = true)
    (hi : s.inputs = commandSamples (pseudoWords (.checksum bs)) ++ rest) :
    runSteps (bs.length + 1) s = .next { s with crc := checksum bs, inputs := rest } := by
  rw [← length_pseudoWords_checksum, runSteps_commandSamples hs hi, applyWords_checksum]

/-! What the assembler reads of what the disassembler prints (30_encoding.md R48). -/

/-- The characters at which the assembler splits a line. -/
def isBlank (c : Char) : Prop := c = ' ' ∨ c = '\t'

theorem splitLine_cons {c : Char} (h : ¬isBlank c) (current cs : List Char) :
    splitLine current (c :: cs) = splitLine (c :: current) cs := if_neg h

theorem splitLine_append {word : List Char} (h : ∀ c ∈ word, ¬isBlank c) (current cs : List Char) :
    splitLine current (word ++ cs) = splitLine (word.reverse ++ current) cs := by
  induction word generalizing current with
  | nil => rfl
  | cons c word ih =>
    obtain ⟨hc, hword⟩ := List.forall_mem_cons.mp h
    rw [List.cons_append, splitLine_cons hc, ih hword, List.reverse_cons, List.append_assoc]
    rfl

theorem splitLine_word {word : List Char} (h : ∀ c ∈ word, ¬isBlank c) (hne : word ≠ []) :
    splitLine [] word = [word] := by
  have hsplit := splitLine_append h [] []
  simpa [splitLine, hne] using hsplit

theorem splitLine_two_words {m a : List Char} (hm : ∀ c ∈ m, ¬isBlank c) (hm' : m ≠ [])
    (ha : ∀ c ∈ a, ¬isBlank c) (ha' : a ≠ []) : splitLine [] (m ++ ' ' :: a) = [m, a] := by
  rw [splitLine_append hm]
  simp [splitLine, hm', splitLine_word ha ha']

theorem digitValue_hexDigit (n : Nibble) : digitValue 16 (hexDigit n) = some n.toNat := by
  revert n; decide

theorem hexDigit_not_blank (n : Nibble) : ¬isBlank (hexDigit n) := by
  revert n; unfold isBlank; decide

/-- A number printed in hex digits, the most significant first, with `0x` before it. -/
def hexNumber (ns : List Nibble) : List Char := '0' :: 'x' :: ns.map hexDigit

theorem hexNumber_not_blank (ns : List Nibble) : ∀ c ∈ hexNumber ns, ¬isBlank c := by
  have hstart : ¬isBlank '0' ∧ ¬isBlank 'x' := by simp [isBlank]
  simp [hexNumber, hstart, hexDigit_not_blank]

/-- The number with the given hex digits, after the digits already read. -/
def hexValue (acc : Nat) (ns : List Nibble) : Nat := ns.foldl (fun v n => v * 16 + n.toNat) acc

theorem digitsValue_map_hexDigit (acc : Nat) (ns : List Nibble) :
    digitsValue 16 acc (ns.map hexDigit) = some (hexValue acc ns) := by
  induction ns generalizing acc with
  | nil => rfl
  | cons n ns ih => rw [List.map_cons, digitsValue, digitValue_hexDigit]; exact ih _

theorem numberValue_hexNumber (n : Nibble) (ns : List Nibble) :
    numberValue (hexNumber (n :: ns)) = some (hexValue 0 (n :: ns)) :=
  digitsValue_map_hexDigit 0 (n :: ns)

theorem assembleLine_feed {a : List Char} (ha : ∀ c ∈ a, ¬isBlank c) (ha' : a ≠ []) :
    assembleLine (['F', 'E', 'E', 'D'] ++ ' ' :: a) =
      (numberValue a).bind fun n => if feedOperandOk n then some (encode (.feed (BitVec.ofNat 8 n))) else none := by
  have hsplit := splitLine_two_words (m := ['F', 'E', 'E', 'D']) (by simp [isBlank]) nofun ha ha'
  rw [assembleLine, hsplit]
  rfl

theorem assembleLine_word {a : List Char} (ha : ∀ c ∈ a, ¬isBlank c) (ha' : a ≠ []) :
    assembleLine (['.', 'w', 'o', 'r', 'd'] ++ ' ' :: a) =
      (numberValue a).bind fun n => if wordOperandOk n then some (BitVec.ofNat 16 n) else none := by
  have hsplit := splitLine_two_words (m := ['.', 'w', 'o', 'r', 'd']) (by simp [isBlank]) nofun ha ha'
  rw [assembleLine, hsplit]
  rfl

theorem hexValue_byte (b : Byte) : hexValue 0 [b.extractLsb' 4 4, b.extractLsb' 0 4] = b.toNat := by
  simp only [hexValue, List.foldl, BitVec.extractLsb'_toNat, Nat.shiftRight_eq_div_pow]
  omega

theorem hexValue_word (w : Word) :
    hexValue 0 [w.extractLsb' 12 4, w.extractLsb' 8 4, w.extractLsb' 4 4, w.extractLsb' 0 4] = w.toNat := by
  simp only [hexValue, List.foldl, BitVec.extractLsb'_toNat, Nat.shiftRight_eq_div_pow]
  omega

theorem disassemble_feed {w : Word} {b : Byte} (h : decode w = .instr (.feed b)) :
    disassemble w = ['F', 'E', 'E', 'D'] ++ ' ' :: hexNumber [b.extractLsb' 4 4, b.extractLsb' 0 4] := by
  rw [disassemble, h]
  rfl

theorem disassemble_illegal {w v : Word} {kind : IllegalKind} (h : decode w = .illegal kind v) :
    disassemble w = ['.', 'w', 'o', 'r', 'd'] ++ ' ' ::
      hexNumber [w.extractLsb' 12 4, w.extractLsb' 8 4, w.extractLsb' 4 4, w.extractLsb' 0 4] := by
  rw [disassemble, h, decode_illegal_word h]
  rfl

theorem assembleLine_disassemble (w : Word) : assembleLine (disassemble w) = some w := by
  cases h : decode w with
  | instr i =>
    cases i with
    | nop => rw [← encode_of_decode h]; decide
    | init => rw [← encode_of_decode h]; decide
    | feed b =>
      have hok : feedOperandOk b.toNat = true := decide_eq_true (Nat.le_of_lt_succ b.isLt)
      rw [disassemble_feed h, assembleLine_feed (hexNumber_not_blank _) nofun, numberValue_hexNumber, hexValue_byte]
      simpa [hok] using encode_of_decode h
  | illegal kind v =>
    have hok : wordOperandOk w.toNat = true := decide_eq_true (Nat.le_of_lt_succ w.isLt)
    rw [disassemble_illegal h, assembleLine_word (hexNumber_not_blank _) nofun, numberValue_hexNumber, hexValue_word]
    simp [hok]

/-! The statements about the encoding (30_encoding.md). -/

/-- Settles O1, by the constructors of the command. -/
theorem decodeEncodeRoundTrip : Obligations.DecodeEncodeRoundTrip := decode_encode

/-- Settles O2: the word and the encoding hold the same fields, and a word is its fields. -/
theorem encodeOfDecodedWord : Obligations.EncodeOfDecodedWord := fun _ _ => encode_of_decode

/-- Settles O3: the rows by number, then the legal words by number. -/
theorem opcodeMapDecides : Obligations.OpcodeMapDecides := by
  unfold Obligations.OpcodeMapDecides
  have hall (w : Word) : w &&& 0xFFFF#16 = w := BitVec.and_allOnes
  simp only [hall]
  refine ⟨?_, ?_, fun w hw => ?_, fun w hnop hinit hfeed => ?_, fun w => ⟨?_, ?_, and_mask_feed_iff w⟩,
    fun w => ⟨?_, ?_, ?_⟩⟩
  · rintro w rfl; exact decode_nop_word
  · rintro w rfl; exact decode_init_word
  · simpa only [eq_encode_feed ((and_mask_feed_iff w).mp hw)] using decode_encode_feed (w.setWidth 8)
  · apply exists_decode_of_illegalWord
    rw [← Bool.not_eq_false, illegalWord_eq_false_iff_toNat]
    rintro (h | h | h)
    · exact hnop (BitVec.eq_of_toNat_eq h)
    · exact hinit (BitVec.eq_of_toNat_eq h)
    · exact hfeed ((and_mask_feed_iff w).mpr h)
  · exact BitVec.toNat_eq
  · exact BitVec.toNat_eq
  · rintro ⟨rfl, h⟩; exact absurd h (by decide)
  · rintro ⟨rfl, h⟩; exact absurd h (by decide)
  · rintro ⟨rfl, h⟩; exact absurd h (by decide)

/-- Settles O4: the ranges are what the legal words by number leave. -/
theorem illegalWordRanges : Obligations.IllegalWordRanges := by
  unfold Obligations.IllegalWordRanges
  refine ⟨fun w => ?_, fun w => exists_decode_of_illegalWord, countP_illegalWord,
    fun w s h => ⟨acceptWord_of_illegalWord h s, rfl⟩⟩
  rw [← Bool.not_eq_false, illegalWord_eq_false_iff_toNat]
  omega

/-- Settles O5: a word is legal when its fields are those of a command. -/
theorem legalWordIffFieldsLegal : Obligations.LegalWordIffFieldsLegal := by
  unfold Obligations.LegalWordIffFieldsLegal
  intro w
  calc Safety.illegalWord w = false
      ↔ ∃ i : Instr, encode i = w := illegalWord_eq_false_iff w
    _ ↔ ∃ i : Instr, i.fields = Fields.ofWord w := by
        simp only [← ofWord_encode, Fields.ofWord_injective.eq_iff]
    _ ↔ _ := exists_fields_eq_iff _

/-- Settles O6, by evaluation of the decoder. -/
theorem wordsOfTheDecodeTable : Obligations.WordsOfTheDecodeTable :=
  ⟨decode_encode .nop, decode_encode .init, decode_encode_feed 0x00#8, decode_encode_feed 0x7F#8,
    decode_encode_feed 0xFF#8, by decide⟩

/-- Settles O43: a run of the words is their application in order (`runSteps_commandSamples`), which folds the bytes. -/
theorem pseudoInstructionsCompute : Obligations.PseudoInstructionsCompute := by
  unfold Obligations.PseudoInstructionsCompute
  refine ⟨fun bs => ?_, fun s bs rest hs hi => ?_, fun s f rest hs hi => ?_, fun s bs rest hs hi => ?_, rfl, rfl⟩
  · rw [pseudoWords_validate, pseudoWords_checksum, pseudoWords_feeds]
    exact ⟨rfl, rfl, rfl⟩
  · exact ⟨_, runSteps_checksum hs hi, rfl, by simp [State.outputs_of_wasReset, hs]⟩
  · exact ⟨_, runSteps_checksum hs hi, rfl, by simp [State.outputs_of_wasReset, hs, State.crcZero, validate]⟩
  · rw [← length_pseudoWords_feeds, runSteps_commandSamples hs hi, applyWords_feeds]

/-- Settles O49, by what the word decodes to; the examples by evaluation. -/
theorem assemblerRoundTrip : Obligations.AssemblerRoundTrip := by
  unfold Obligations.AssemblerRoundTrip
  exact ⟨assembleLine_disassemble, by decide⟩

end Sys2Proof.Machine

/-! The byte step as a map of words (40_crc_arithmetic.md R51 to R62): bit steps are a bijection and linear over XOR, so the
byte step and its fold over a message are too, and two bytes of CRC are sixteen bit steps of their word. -/

namespace Sys2Proof.Machine

/-! The bit step and its inverse (40_crc_arithmetic.md R51). -/

/-- The register before a bit step, told from the register after it (40_crc_arithmetic.md R51). -/
def bitstepInv (r : Word) : Word :=
  (r ^^^ (if r.getLsbD 15 then 0xA001#16 else 0x0000#16)) <<< 1 ||| (if r.getLsbD 15 then 1#16 else 0#16)

/-- Bit 15 of the polynomial is 1 and that of a shifted word is 0, so the bit that left shows there. -/
theorem bitstep_getLsbD_msb (c : Word) : (bitstep c).getLsbD 15 = c.getLsbD 0 := by
  unfold bitstep
  cases c.getLsbD 0 with
  | false => simp
  | true => simp [Config.polyReflected]

/-- A word is its bit 0 and its other bits moved down and up again. -/
theorem ushiftRight_shiftLeft_or_bit_zero (c : Word) :
    c >>> 1 <<< 1 ||| (if c.getLsbD 0 then 1#16 else 0#16) = c := by
  ext i hi
  cases i with
  | zero => cases h : c.getLsbD 0 <;> simp_all
  | succ i => cases c.getLsbD 0 <;> simp [Nat.add_comm, BitVec.getLsbD_eq_getElem hi]

theorem bitstepInv_bitstep (c : Word) : bitstepInv (bitstep c) = c := by
  have hshift : bitstep c ^^^ (if c.getLsbD 0 then 0xA001#16 else 0x0000#16) = c >>> 1 := by
    unfold bitstep
    cases c.getLsbD 0 with
    | false => simp
    | true => simp [Config.polyReflected]
  rw [bitstepInv, bitstep_getLsbD_msb, hshift, ushiftRight_shiftLeft_or_bit_zero]

theorem bitstep_injective : Function.Injective bitstep := Function.LeftInverse.injective bitstepInv_bitstep

theorem bitsteps_injective (k : Nat) : Function.Injective (bitsteps k) := by
  induction k with
  | zero => exact Function.injective_id
  | succ k ih => exact ih.comp bitstep_injective

theorem bitsteps_zero (k : Nat) : bitsteps k 0x0000#16 = 0x0000#16 := by
  induction k with
  | zero => rfl
  | succ k ih => exact ih

/-! The byte step (40_crc_arithmetic.md R57, R59). -/

theorem crcStep_eq_bitsteps (c : Word) (b : Byte) : crcStep c b = bitsteps 8 (c ^^^ zextByte b) := crcStep_eq_stepBits c b

theorem zextByte_xor (a b : Byte) : zextByte (a ^^^ b) = zextByte a ^^^ zextByte b := BitVec.setWidth_xor

theorem zextByte_injective : Function.Injective zextByte := by
  intro a b h
  simpa [zextByte] using congrArg (BitVec.setWidth 8) h

/-- The byte table holds the nibble table at the multiples of 16 (40_crc_arithmetic.md R57). -/
theorem t256_nibble_shiftLeft (n : Nibble) : t256 (n.setWidth 8 <<< 4) = t16 n := by
  have hzext : zextByte (n.setWidth 8 <<< 4) = zextNibble n <<< 4 := by revert n; decide
  rw [t256_eq_bitsteps, hzext, bitsteps_add 4 4, bitsteps_nibble_shiftLeft, t16_eq_bitsteps]

/-- The byte step is linear over XOR (40_crc_arithmetic.md R59). -/
theorem crcStep_xor (c₁ c₂ : Word) (b₁ b₂ : Byte) :
    crcStep (c₁ ^^^ c₂) (b₁ ^^^ b₂) = crcStep c₁ b₁ ^^^ crcStep c₂ b₂ := by
  simp only [crcStep_eq_bitsteps, ← bitsteps_xor]
  congr 1
  rw [zextByte_xor]
  ac_rfl

theorem crcStep_zero_left (b : Byte) : crcStep 0#16 b = t256 b := by
  rw [crcStep_eq_bitsteps, t256_eq_bitsteps, BitVec.zero_xor]

theorem crcStep_eq_xor_t256 (c : Word) (b : Byte) : crcStep c b = crcStep c 0 ^^^ t256 b := by
  calc crcStep c b
      = crcStep (c ^^^ 0#16) (0#8 ^^^ b) := by rw [BitVec.xor_zero, BitVec.zero_xor]
    _ = crcStep c 0#8 ^^^ t256 b := by rw [crcStep_xor, crcStep_zero_left]

theorem crcStep_injective_left (b : Byte) : Function.Injective fun c => crcStep c b := by
  intro c d h
  simp only [crcStep_eq_bitsteps] at h
  exact (BitVec.xor_left_inj _).mp (bitsteps_injective 8 h)

theorem crcStep_injective_right (c : Word) : Function.Injective (crcStep c) := by
  intro a b h
  rw [crcStep_eq_bitsteps, crcStep_eq_bitsteps] at h
  exact zextByte_injective ((BitVec.xor_right_inj c).mp (bitsteps_injective 8 h))

/-! The fold of the step over a message (40_crc_arithmetic.md R58). -/

theorem crcFrom_eq_foldl (c : Word) (bs : List Byte) : crcFrom c bs = bs.foldl crcStep c := by
  induction bs generalizing c with
  | nil => rfl
  | cons b bs ih => exact ih _

theorem crcFrom_append (c : Word) (bs cs : List Byte) : crcFrom c (bs ++ cs) = crcFrom (crcFrom c bs) cs := by
  simp only [crcFrom_eq_foldl, List.foldl_append]

theorem checksum_append (bs cs : List Byte) : checksum (bs ++ cs) = crcFrom (checksum bs) cs :=
  crcFrom_append 0xFFFF#16 bs cs

theorem crcFrom_injective (bs : List Byte) : Function.Injective fun c => crcFrom c bs := by
  induction bs with
  | nil => exact Function.injective_id
  | cons b bs ih => exact ih.comp (crcStep_injective_left b)

theorem validate_eq_true_iff (f : List Byte) : validate f = true ↔ checksum f = 0x0000#16 := beq_iff_eq

/-! The residue of a message with two bytes appended (40_crc_arithmetic.md R60, R61). -/

/-- A word is its low byte and its high byte eight bits up. -/
theorem eq_zextByte_lowByte_xor_highByte (v : Word) : v = zextByte (lowByte v) ^^^ (zextByte (highByte v) <<< 8) := by
  ext i hi
  by_cases h : i < 8
  · simp [zextByte, lowByte, h, BitVec.getLsbD_eq_getElem hi]
  · have hback : 8 + (i - 8) = i := by omega
    have hbyte : i - 8 < 8 := by omega
    simp [zextByte, lowByte, highByte, h, hback, hbyte, hi]

/-- A byte eight bits up has moved down after eight bit steps. -/
theorem bitsteps_byte_shiftLeft (b : Byte) : bitsteps 8 (zextByte b <<< 8) = zextByte b := by
  revert b; decide

/-- Feeding the two bytes of a word, low byte first, is sixteen bit steps with the word folded in first. -/
theorem crcFrom_wireBytes (c v : Word) : crcFrom c (wireBytes v) = bitsteps 16 (c ^^^ v) := by
  calc crcFrom c (wireBytes v)
      = bitsteps 8 (bitsteps 8 (c ^^^ zextByte (lowByte v)) ^^^ zextByte (highByte v)) := by
        rw [wireBytes, crcFrom, crcFrom, crcFrom, crcStep_eq_bitsteps, crcStep_eq_bitsteps]
    _ = bitsteps 8 (bitsteps 8 (c ^^^ v)) := by
        rw [← bitsteps_byte_shiftLeft (highByte v), ← bitsteps_xor, BitVec.xor_assoc,
          ← eq_zextByte_lowByte_xor_highByte]
    _ = bitsteps 16 (c ^^^ v) := (bitsteps_add 8 8 _).symm

/-- Two bytes appended to a message leave the residue `0x0000` exactly when they are the message's checksum. -/
theorem checksum_append_wireBytes_eq_zero_iff (bs : List Byte) (v : Word) :
    checksum (bs ++ wireBytes v) = 0x0000#16 ↔ checksum bs = v := by
  calc checksum (bs ++ wireBytes v) = 0x0000#16
      ↔ bitsteps 16 (checksum bs ^^^ v) = 0x0000#16 := by
        rw [checksum_append, crcFrom_wireBytes]
    _ ↔ checksum bs ^^^ v = 0x0000#16 := (bitsteps_injective 16).eq_iff' (bitsteps_zero 16)
    _ ↔ checksum bs = v := BitVec.xor_eq_zero_iff

theorem validate_appendCrc (bs : List Byte) : validate (appendCrc bs) = true :=
  (validate_eq_true_iff _).mpr ((checksum_append_wireBytes_eq_zero_iff bs _).mpr rfl)

theorem lowByte_ofWireBytes (lo hi : Byte) : lowByte (ofWireBytes lo hi) = lo := by
  ext i h
  have hword : i < 16 := by omega
  simp [lowByte, ofWireBytes, zextByte, h, hword]

theorem highByte_ofWireBytes (lo hi : Byte) : highByte (ofWireBytes lo hi) = hi := by
  ext i h
  have hword : 8 + i < 16 := by omega
  simp [highByte, ofWireBytes, zextByte, h, hword]

theorem wireBytes_ofWireBytes (lo hi : Byte) : wireBytes (ofWireBytes lo hi) = [lo, hi] := by
  rw [wireBytes, lowByte_ofWireBytes, highByte_ofWireBytes]

/-- The only two bytes that validate are the checksum of nothing (40_crc_arithmetic.md R58). -/
theorem validate_pair_iff (x y : Byte) : validate [x, y] = true ↔ x = 0xFF#8 ∧ y = 0xFF#8 := by
  calc validate [x, y] = true
      ↔ checksum ([] ++ wireBytes (ofWireBytes x y)) = 0x0000#16 := by
        rw [wireBytes_ofWireBytes, validate_eq_true_iff, List.nil_append]
    _ ↔ 0xFFFF#16 = ofWireBytes x y := checksum_append_wireBytes_eq_zero_iff [] _
    _ ↔ x = 0xFF#8 ∧ y = 0xFF#8 := by
        constructor
        · intro h
          have hbytes : [x, y] = wireBytes 0xFFFF#16 := by rw [h, wireBytes_ofWireBytes]
          simpa [wireBytes, lowByte, highByte] using hbytes
        · rintro ⟨rfl, rfl⟩; decide

/-! A flipped bit (40_crc_arithmetic.md R62). -/

theorem xor_bit_ne (b : Byte) {j : Nat} (hj : j < 8) : b ^^^ (1#8 <<< j) ≠ b := by
  intro h
  have hbit := congrArg (fun a : Byte => a.getLsbD j) h
  simp [hj] at hbit

/-- A flipped bit changes what one step leaves, and every later step keeps the difference. -/
theorem crcFrom_flipBit_ne (c : Word) {f : List Byte} {k j : Nat} (hk : k < f.length) (hj : j < 8) :
    crcFrom c (flipBit f k j) ≠ crcFrom c f := by
  induction f generalizing c k with
  | nil => exact absurd hk (Nat.not_lt_zero k)
  | cons b f ih =>
    cases k with
    | zero => exact (crcFrom_injective f).ne ((crcStep_injective_right c).ne (xor_bit_ne b hj))
    | succ k => exact ih (crcStep c b) (Nat.lt_of_succ_lt_succ hk)

/-! The statements about the arithmetic (40_crc_arithmetic.md). -/

/-- Settles O30: `bitstepInv` undoes the bit step, and an injective map of the finitely many words is a bijection. -/
theorem bitStepIsABijection : Obligations.BitStepIsABijection := by
  unfold Obligations.BitStepIsABijection
  refine ⟨fun _ => rfl, bitstep_getLsbD_msb, ?_, bitstep_injective.bijective_of_finite, by decide, by decide⟩
  rintro c _ rfl
  exact (bitstepInv_bitstep c).symm

/-- Settles O31: the table by `t16_eq_bitsteps`, its values by evaluation. -/
theorem nibbleTableIsFourBitSteps : Obligations.NibbleTableIsFourBitSteps :=
  ⟨t16_eq_bitsteps, by decide⟩

/-- Settles O32, by `nibstep_eq_bitsteps`; the corner cases by evaluation. -/
theorem nibbleStepIsFourBitSteps : Obligations.NibbleStepIsFourBitSteps :=
  ⟨fun c n => ⟨rfl, nibstep_eq_bitsteps c n⟩, by decide⟩

/-- Settles O33: FEED folds its byte by `crcStep`, which is the two nibble steps; the examples by evaluation. -/
theorem byteStepIsLowThenHighNibble : Obligations.ByteStepIsLowThenHighNibble :=
  ⟨fun _ _ => rfl, fun s b => exec_feed b s, by decide⟩

/-- Settles O36: the nibble-table and the byte-table step are both the bit-serial one. -/
theorem threeByteStepsAgree : Obligations.ThreeByteStepsAgree :=
  ⟨fun c b => ⟨crcStep_eq_stepBits c b, (crcStep_eq_stepBits c b).trans (stepTab_eq_stepBits c b).symm⟩,
    acceptWordAs_eq_acceptWord⟩

/-- Settles O37: both tables are bit steps of their index, and four of the eight move a nibble down. -/
theorem byteTableIsEightBitSteps : Obligations.ByteTableIsEightBitSteps :=
  ⟨t256_eq_bitsteps, t256_nibble_shiftLeft, rfl, fun _ _ => rfl⟩

/-- Settles O38: the byte step is bit steps, linear and injective, of the register with the byte folded in. -/
theorem stepIsLinear : Obligations.StepIsLinear :=
  ⟨crcStep_xor, crcStep_eq_xor_t256, fun b => (crcStep_injective_left b).bijective_of_finite, crcStep_injective_right⟩

/-- Settles O39: the equations are the definitions', the concatenation that of a fold, and the two bytes that validate
are the checksum of nothing. -/
theorem checksumIsAFold : Obligations.ChecksumIsAFold :=
  ⟨fun _ _ _ => ⟨rfl, rfl⟩, fun bs => ⟨rfl, validate_eq_true_iff bs⟩, crcFrom_append, by decide, validate_pair_iff,
    by decide⟩

/-- Settles O40, by `validate_appendCrc`; the other order by evaluation. -/
theorem appendedChecksumValidates : Obligations.AppendedChecksumValidates :=
  ⟨validate_appendCrc, by decide⟩

/-- Settles O41: the bytes of any word but the checksum leave a residue (`checksum_append_wireBytes_eq_zero_iff`). -/
theorem noFinalXor : Obligations.NoFinalXor := by
  unfold Obligations.NoFinalXor
  refine ⟨fun s hs => by rw [State.outputs_of_wasReset hs], fun bs x hx hzero => hx ?_⟩
  have hsame : checksum bs = checksum bs ^^^ x := (checksum_append_wireBytes_eq_zero_iff bs _).mp hzero
  exact (BitVec.xor_right_inj (checksum bs)).mp (by rw [← hsame, BitVec.xor_zero])

/-- Settles O42: the frame leaves `0x0000`, and the flipped frame something else (`crcFrom_flipBit_ne`). -/
theorem singleBitErrorsAreDetected : Obligations.SingleBitErrorsAreDetected := by
  unfold Obligations.SingleBitErrorsAreDetected
  intro bs k j hk hj
  have hvalid : checksum (appendCrc bs) = 0x0000#16 := (validate_eq_true_iff _).mp (validate_appendCrc bs)
  rw [← Bool.not_eq_true, validate_eq_true_iff, ← hvalid]
  exact crcFrom_flipBit_ne _ hk hj

end Sys2Proof.Machine

/-! The commands (41_commands.md R63 to R66): the words they are offered by, and the step that accepts a word. -/

namespace Sys2Proof

/-- Any word with opcode 0 but NOP is illegal (41_commands.md R64). -/
theorem exists_decode_of_fieldOp_zero {w : Word} (hop : fieldOp w = 0) (hne : w ≠ 0x0000#16) :
    ∃ kind, decode w = .illegal kind w := by
  rcases decode_cases w with ⟨h, -⟩ | ⟨rfl, -⟩ | ⟨h, -, -⟩ | e
  · exact absurd h hne
  · exact absurd hop (by decide)
  · rw [h] at hop; exact absurd hop (by decide)
  · exact ⟨_, e⟩

theorem decode_of_decodeTableWord {nbits w : Nat} {i : Instr} (h : decodeTableWord nbits w = some i) :
    decode (tableWord nbits w) = .instr i := by
  unfold decodeTableWord at h
  cases hd : decode (tableWord nbits w) with
  | instr j => rw [hd] at h; cases h; rfl
  | illegal kind v => rw [hd] at h; cases h

end Sys2Proof

namespace Sys2Proof.Machine

/-- Once a reset has taken effect, a command offered in time is accepted (10_state.md R22). -/
theorem step_of_command {s : State} {e : PortSample} {rest : List PortSample} (hs : s.wasReset = true)
    (hi : s.inputs = e :: rest) (hr : e.rst = false) (hv : e.cmdValid = true) (hh : e.setupHold = true) :
    step s = acceptWord e.cmdWord { s with inputs := rest } := by
  simp [step, nextSample_cons hi, takeSample, hs, hr, hv, hh]

theorem step_offer_of_instr {s : State} {w : Word} {i : Instr} (hs : s.wasReset = true) (hd : decode w = .instr i) :
    step (s.offer w) = exec i s :=
  (step_of_command (s := s.offer w) hs rfl rfl rfl rfl).trans (acceptWord_of_instr hd s)

/-- The frame of the commands: each writes `crc` at most, and NOP leaves `crc` as it was (41_commands.md R64 to R66). -/
theorem exists_exec_eq_setCrc (i : Instr) (s : State) :
    ∃ v, exec i s = .next (s.setCrc v) ∧ (i = .nop → v = s.crc) := by
  cases i with
  | nop => exact ⟨s.crc, exec_nop s, fun _ => rfl⟩
  | init => exact ⟨Config.preset, exec_init s, nofun⟩
  | feed b => exact ⟨crcStep s.crc b, exec_feed b s, nofun⟩

/-- FEED on a register whose byte step is known. -/
theorem exec_feed_of_crcStep {c r : Word} {b : Byte} (h : crcStep c b = r) (s : State) :
    exec (.feed b) { s with crc := c } = .next { s with crc := r } := by
  rw [exec_feed, ← h]
  rfl

/-- The registers of 10_state.md R11 are written by a reset, with its values, or by the acceptance of a word, once a reset
has taken effect (41_commands.md R63). -/
theorem reset_or_accept_of_observe_ne {s t : State} (hs : s.wasReset = true) (h : step s = .next t)
    (hne : t.observe ≠ s.observe) :
    ((nextSample s).1.rst = true ∧ t.observe = (0xFFFF#16, false, 0x0000#16)) ∨
      ((nextSample s).1.rst = false ∧ (nextSample s).1.cmdValid = true ∧
        acceptWord (nextSample s).1.cmdWord (nextSample s).2 = .next t) := by
  rcases step_cases_of_wasReset hs h with ⟨hr, rfl⟩ | ⟨hr, hv, -, rfl⟩ | ⟨-, -, rfl⟩
  · exact .inl ⟨hr, rfl⟩
  · exact .inr ⟨hr, hv, by rw [acceptWord_eq_next, nextSample_snd, applyWord_inputs]⟩
  · exact absurd rfl hne

/-! The statements about the commands (41_commands.md). -/

/-- Settles O11: the four effects are those of the decoded command or of an illegal word; of the steps, one that offers
nothing writes no register. -/
theorem acceptingAWord : Obligations.AcceptingAWord := by
  unfold Obligations.AcceptingAWord
  refine ⟨fun w s => ⟨fun h => ?_, fun h => ?_, fun b h => ?_, fun h => ?_⟩,
    fun s t => reset_or_accept_of_observe_ne⟩
  · exact (acceptWord_of_instr h s).trans (exec_nop s)
  · exact (acceptWord_of_instr h s).trans (exec_init s)
  · exact (acceptWord_of_instr h s).trans (exec_feed b s)
  · exact acceptWord_of_illegalWord h s

/-- Settles O9: the two lines are the two nibble steps of `crcStep`, which every IMPL computes; the word holds the fields
of FEED; the corner cases by evaluation of the byte step. -/
theorem feedFoldsOneByte : Obligations.FeedFoldsOneByte := by
  unfold Obligations.FeedFoldsOneByte
  refine ⟨fun s b => ⟨exec_feed b s, fun hs => ?_, fun impl => crcStepAs_eq_crcStep impl s.crc b,
    State.crcZero_eq_true _⟩, fun b => ?_, fun s => ⟨?_, ?_, ?_, ?_, ?_⟩⟩
  · exact (step_offer_of_instr hs (decode_encode_feed b)).trans (exec_feed b s)
  · obtain ⟨-, hrsv, himm⟩ := Fields.mk.inj (ofWord_encode (.feed b))
    exact ⟨rfl, hrsv, himm⟩
  all_goals exact exec_feed_of_crcStep (by decide) s

/-- Settles O7: NOP writes nothing, and a step that accepts its word runs it. -/
theorem nopChangesNothing : Obligations.NopChangesNothing := by
  unfold Obligations.NopChangesNothing
  refine ⟨rfl, fun s => ⟨exec_nop s, fun hs => ?_⟩, fun w => exists_decode_of_fieldOp_zero, fun s h => ?_⟩
  · exact (step_offer_of_instr hs decode_nop_word).trans (exec_nop s)
  · rw [exec_nop, ← h]

/-- Settles O8: INIT is `loadPreset`, from every state, and a step that accepts its word runs it. -/
theorem initLoadsPreset : Obligations.InitLoadsPreset := by
  unfold Obligations.InitLoadsPreset
  refine ⟨rfl, fun s => ⟨exec_init s, fun hs => ?_, rfl, exec_init _⟩, fun ins => exec_init _, rfl,
    fun s _ => ⟨_, exec_init s, State.loadPreset_crc s⟩⟩
  exact (step_offer_of_instr hs decode_init_word).trans (exec_init s)

/-- Settles O10, by `exists_exec_eq_setCrc`. -/
theorem legalCommandsWriteOnlyCrc : Obligations.LegalCommandsWriteOnlyCrc := by
  unfold Obligations.LegalCommandsWriteOnlyCrc
  intro i s
  obtain ⟨v, hexec, hnop⟩ := exists_exec_eq_setCrc i s
  exact ⟨s.setCrc v, hexec, rfl, rfl, rfl, rfl, rfl, hnop⟩

/-- Settles O12: the step accepts the word, which is to execute what it decodes to. -/
theorem stepRunsDecodedInstruction : Obligations.StepRunsDecodedInstruction := by
  unfold Obligations.StepRunsDecodedInstruction
  refine ⟨fun s e rest i hs hi hr hv hh hd => ?_, fun s nbits w i hs hd => ?_⟩
  · rw [step_of_command hs hi hr hv hh, acceptWord_of_instr hd]
  · exact step_offer_of_instr hs (decode_of_decodeTableWord hd)

end Sys2Proof.Machine

/-! The host's procedures (42_host_procedures.md): a parse by the length and the residue of the frame, and a host that waits
out each latency. -/

namespace Sys2Proof.Machine

/-! Parsing a frame (42_host_procedures.md R73 to R75). -/

theorem hostParse_of_short (validation : Bool) {f : List Byte} (h : f.length < 4) :
    hostParse validation f = .shortFrame := if_pos h

theorem hostParse_of_mismatch {f : List Byte} (hlength : 4 ≤ f.length) (hbad : validate f = false) :
    hostParse true f = .crcMismatch := by
  simp [hostParse, Nat.not_lt.mpr hlength, hbad]

/-- A frame that is long enough and passes the validation the host asks for is taken apart (42_host_procedures.md R75). -/
theorem hostParse_of_accepted {validation : Bool} {f : List Byte} (hlength : 4 ≤ f.length)
    (hvalid : validation = true → validate f = true) :
    hostParse validation f = .frame (f.getD 0 0) ((f.take (f.length - 2)).drop 1) := by
  have hpass : (validation && !validate f) = false := by simpa using hvalid
  simp [hostParse, Nat.not_lt.mpr hlength, hpass]

/-- The parts of such a frame: its first byte, and what stands between that and the last two bytes. -/
theorem hostParse_eq_frame {validation : Bool} {a x y : Byte} {payload : List Byte} (hne : payload ≠ [])
    (hvalid : validation = true → validate (a :: payload ++ [x, y]) = true) :
    hostParse validation (a :: payload ++ [x, y]) = .frame a payload := by
  have hpos : 0 < payload.length := List.length_pos_iff.mpr hne
  have hlength : 4 ≤ (a :: payload ++ [x, y]).length := by
    simp only [List.length_append, List.length_cons]
    omega
  rw [hostParse_of_accepted hlength hvalid]
  simp

theorem buildFrame_eq (a f : Byte) (d : List Byte) :
    buildFrame a f d = a :: (f :: d) ++ [lowByte (checksum (a :: f :: d)), highByte (checksum (a :: f :: d))] := rfl

theorem validate_buildFrame (a f : Byte) (d : List Byte) : validate (buildFrame a f d) = true := validate_appendCrc _

theorem hostParse_buildFrame (validation : Bool) (a f : Byte) (d : List Byte) :
    hostParse validation (buildFrame a f d) = .frame a (f :: d) := by
  have hvalid := validate_buildFrame a f d
  rw [buildFrame_eq] at hvalid ⊢
  exact hostParse_eq_frame (List.cons_ne_nil f d) fun _ => hvalid

/-! Waiting for a command to complete on the clock level (70_reset_and_hazards.md R102). -/

theorem cmdReady_of_idle {c : Clocked} (h : c.idle = true) : c.cmdReady false = true := by
  obtain ⟨hw, -, -⟩ := (idle_iff c).mp h
  simp [Clocked.cmdReady, hw, h]

theorem edges_of_edge {p : Config.Params} {c d : Clocked} (h : c.edge p = .next d) (n : Nat) :
    c.edges p (n + 1) = d.edges p n := by
  rw [Clocked.edges, h]

theorem noReset_cons {e : PortSample} {es : List PortSample} :
    Safety.noReset (e :: es) = true ↔ e.rst = false ∧ Safety.noReset es = true := by
  simp [Safety.noReset]

/-- The edge that completes the command in progress. -/
theorem edge_of_last_wait {p : Config.Params} {c : Clocked} {q : InFlight} (hr : (nextSample c.eng).1.rst = false)
    (hw : c.eng.wasReset = true) (hf : c.inFlight = some q) (hlast : q.left ≤ 1) :
    c.edge p = .next { c.taken 0 with eng := (c.taken 0).settled, inFlight := none } := by
  have hf' : (c.taken 0).inFlight = some q := hf
  rw [edge_of_running hr hw, settled_of_some hf']
  simp [Clocked.running, hf', hlast, commit_eq]

/-- An edge before that counts down. -/
theorem edge_of_wait {p : Config.Params} {c : Clocked} {q : InFlight} (hr : (nextSample c.eng).1.rst = false)
    (hw : c.eng.wasReset = true) (hf : c.inFlight = some q) (hmore : 1 < q.left) :
    c.edge p = .next { c.taken 0 with inFlight := some { q with left := q.left - 1 } } := by
  have hf' : (c.taken 0).inFlight = some q := hf
  rw [edge_of_running hr hw]
  simp [Clocked.running, hf', Nat.not_le.mpr hmore]

/-- As many edges as the command in progress has left complete it, whatever is on the ports but a reset. -/
theorem edges_of_inFlight {p : Config.Params} {c : Clocked} {q : InFlight} {es rest : List PortSample}
    (hw : c.eng.wasReset = true) (hf : c.inFlight = some q) (hleft : q.left = es.length) (hne : es ≠ [])
    (hno : Safety.noReset es = true) (hi : c.eng.inputs = es ++ rest) :
    c.edges p es.length =
      .next { eng := { c.settled with inputs := rest }, inFlight := none, settle := c.settle, held := 0 } := by
  induction es generalizing c q with
  | nil => exact absurd rfl hne
  | cons e es ih =>
    obtain ⟨he, hno⟩ := noReset_cons.mp hno
    have hr : (nextSample c.eng).1.rst = false := by rw [nextSample_cons hi]; exact he
    have htail : c.eng.inputs.tail = es ++ rest := by rw [hi]; rfl
    cases es with
    | nil =>
      have hlast : q.left ≤ 1 := hleft.le
      rw [List.length_singleton, edges_of_edge (edge_of_last_wait hr hw hf hlast), settled_taken, htail]
      rfl
    | cons e' es =>
      have hmore : 1 < q.left := by rw [hleft]; simp
      have hwait := ih (c := { c.taken 0 with inFlight := some { q with left := q.left - 1 } }) hw rfl
        (by simp [hleft]) (List.cons_ne_nil e' es) hno htail
      rw [List.length_cons, edges_of_edge (edge_of_wait hr hw hf hmore), hwait, settled_of_some rfl, settled_of_some hf]
      simp only [Clocked.taken, applyWord_inputs]

/-- The edge at which an idle engine meets an offered word is its acceptance. -/
theorem edge_of_command {p : Config.Params} {c : Clocked} {w : Word} {rest : List PortSample} (hidle : c.idle = true)
    (hi : c.eng.inputs = commandSample w :: rest) : c.edge p = (c.taken 0).accept p w := by
  obtain ⟨hw, hf, hs⟩ := (idle_iff c).mp hidle
  have hnext : (nextSample c.eng).1 = commandSample w := by rw [nextSample_cons hi]
  rw [edge_of_running (by rw [hnext]; rfl) hw, hnext]
  simp [Clocked.running, Clocked.taken, hf, hs]

/-- A word offered to an idle engine is in the state, and the engine idle again, as many edges after its acceptance as its
latency (70_reset_and_hazards.md R102). -/
theorem edges_of_command {p : Config.Params} {c : Clocked} {w : Word} {es rest : List PortSample}
    (hidle : c.idle = true) (hlat : latencyOf p w = es.length) (hno : Safety.noReset es = true)
    (hi : c.eng.inputs = commandSample w :: (es ++ rest)) :
    c.edges p (es.length + 1) =
      .next { eng := { c.eng.applyWord w with inputs := rest }, inFlight := none, settle := 0, held := 0 } := by
  obtain ⟨hw, hf, hs⟩ := (idle_iff c).mp hidle
  have hedge := edge_of_command (p := p) hidle hi
  have htail : c.eng.inputs.tail = es ++ rest := by rw [hi]; rfl
  cases es with
  | nil =>
    rw [Clocked.accept, hlat, List.length_nil] at hedge
    rw [List.length_nil, edges_of_edge (hedge.trans (commit_eq p w _))]
    simp [Clocked.edges, Clocked.taken, applyWord_inputs, htail, hs]
  | cons e es =>
    rw [Clocked.accept, hlat, List.length_cons] at hedge
    have hwait := edges_of_inFlight (p := p)
      (c := { c.taken 0 with inFlight := some { word := w, left := es.length + 1 } }) hw rfl rfl
      (List.cons_ne_nil e es) hno htail
    rw [edges_of_edge hedge, hwait, settled_of_some rfl]
    simp [Clocked.taken, applyWord_inputs, hs]

theorem noReset_replicate_idleSample (n : Nat) : Safety.noReset (List.replicate n idleSample) = true := by
  simp [Safety.noReset]

theorem pacedSamples_cons (p : Config.Params) (w : Word) (ws : List Word) :
    pacedSamples p (w :: ws) =
      commandSample w :: (List.replicate (latencyOf p w) idleSample ++ pacedSamples p ws) := rfl

/-- A host that waits out each latency gets its words applied in order and finds the engine idle
(42_host_procedures.md R77). -/
theorem exists_edges_pacedSamples {p : Config.Params} {c : Clocked} {ws : List Word} {rest : List PortSample}
    (hidle : c.idle = true) (hi : c.eng.inputs = pacedSamples p ws ++ rest) :
    ∃ d, c.edges p (pacedSamples p ws).length = .next d ∧ d.idle = true ∧
      d.eng = { c.eng.applyWords ws with inputs := rest } := by
  induction ws generalizing c with
  | nil =>
    obtain rfl : c.eng.inputs = rest := hi
    exact ⟨c, rfl, hidle, rfl⟩
  | cons w ws ih =>
    obtain ⟨hw, -, -⟩ := (idle_iff c).mp hidle
    rw [pacedSamples_cons, List.cons_append, List.append_assoc] at hi
    have hfirst := edges_of_command hidle List.length_replicate.symm (noReset_replicate_idleSample _) hi
    obtain ⟨d, hrest, hd, heng⟩ := ih
      (c := ⟨{ c.eng.applyWord w with inputs := pacedSamples p ws ++ rest }, none, 0, 0⟩)
      ((idle_iff _).mpr ⟨(applyWord_wasReset w c.eng).1.trans hw, rfl, rfl⟩) rfl
    have hlength : (pacedSamples p (w :: ws)).length =
        (List.replicate (latencyOf p w) idleSample).length + 1 + (pacedSamples p ws).length := by
      rw [pacedSamples_cons, List.length_cons, List.length_append]
      omega
    refine ⟨d, ?_, hd, ?_⟩
    · rw [hlength, edges_add _ _ _ _ _ hfirst, hrest]
    · rw [heng, applyWords_inputs, applyWords_cons]

/-! The statements about the host's procedures (42_host_procedures.md). -/

/-- Settles O45: the last two bytes are those of the word they are read as, and they leave the residue `0x0000` exactly
when that word is the checksum (`checksum_append_wireBytes_eq_zero_iff`). -/
theorem twoVerdictsAgree : Obligations.TwoVerdictsAgree := by
  unfold Obligations.TwoVerdictsAgree
  intro bs lo hi
  rw [← wireBytes_ofWireBytes lo hi, Bool.eq_iff_iff, validate_eq_true_iff, beq_iff_eq]
  exact checksum_append_wireBytes_eq_zero_iff bs _

/-- Settles O46: the frame validates since its checksum is appended, so it is taken apart (`hostParse_buildFrame`); the
bytes of the example by evaluation. -/
theorem builtFrameParses : Obligations.BuiltFrameParses := by
  unfold Obligations.BuiltFrameParses
  have hexample : buildFrame 0x01#8 0x04#8 [0x00#8, 0x0A#8] = [0x01#8, 0x04#8, 0x00#8, 0x0A#8, 0xC0#8, 0x1E#8] := by
    decide
  refine ⟨fun a f d => ⟨buildFrame_eq a f d, validate_buildFrame a f d, hostParse_buildFrame true a f d⟩, hexample, ?_⟩
  rw [← hexample]
  exact hostParse_buildFrame true _ _ _

/-- Settles O47: the three outcomes of the parse, by length and residue; the engine's part is that the words of VALIDATE
write `crc` alone (`applyWords_checksum`). -/
theorem hostVerdicts : Obligations.HostVerdicts := by
  unfold Obligations.HostVerdicts
  refine ⟨fun v f => hostParse_of_short v, fun f hlength => ?_, fun f => ?_, fun s f => ?_⟩
  · cases hvalid : validate f with
    | false => simp [hostParse_of_mismatch hlength hvalid]
    | true => simp [hostParse_of_accepted hlength fun _ => hvalid]
  · rcases Nat.lt_or_ge f.length 4 with hshort | hlength
    · simp [hostParse_of_short false hshort]
    · simp [hostParse_of_accepted (validation := false) hlength nofun]
  · rw [pseudoWords_validate, applyWords_checksum]
    exact ⟨rfl, rfl⟩

/-- Settles O56, by induction on the words: each is complete, and the engine idle again, when its latency has passed
(`edges_of_command`), whatever IMPL computes it (`commit_eq`). -/
theorem everyLatencyGivesTheSameRun : Obligations.EveryLatencyGivesTheSameRun := by
  unfold Obligations.EveryLatencyGivesTheSameRun
  intro p c ws rest hidle hi
  obtain ⟨d, hedges, hd, heng⟩ := exists_edges_pacedSamples hidle hi
  exact ⟨d, hedges, cmdReady_of_idle hd, heng⟩

/-- Settles O59: with validation off the length alone decides, and where the frame validates it decides with validation on
too. -/
theorem parseWithoutValidation : Obligations.ParseWithoutValidation := by
  unfold Obligations.ParseWithoutValidation
  refine ⟨fun a x y payload hne => hostParse_eq_frame hne nofun, hostParse_buildFrame false, fun f hvalid => ?_⟩
  rcases Nat.lt_or_ge f.length 4 with hshort | hlength
  · rw [hostParse_of_short false hshort, hostParse_of_short true hshort]
  · rw [hostParse_of_accepted (validation := false) hlength nofun, hostParse_of_accepted hlength fun _ => hvalid]

end Sys2Proof.Machine

/-! Exceptions (60_exceptions.md): a step is refused at one kind of sample only, what it leaves in `crc` does not depend on
the error record, and an illegal word is recorded once. -/

namespace Sys2Proof.Machine

/-! Which steps have a next state, and what they leave in `crc` (60_exceptions.md R79; 42_host_procedures.md R76). -/

/-- A command offered with setup or hold violated is refused, before the first reset too (42_host_procedures.md R76). -/
theorem step_eq_refused {s : State} (hr : (nextSample s).1.rst = false) (hv : (nextSample s).1.cmdValid = true)
    (hh : (nextSample s).1.setupHold = false) : step s = .refused .setupHoldViolated := by
  simp [step, takeSample, sampleBeforeReset, hr, hv, hh]

/-- The step has a next state exactly where the sample is in time, whatever the registers hold. -/
theorem exists_step_eq_next_iff (s : State) :
    (∃ t, step s = .next t) ↔
      ((nextSample s).1.rst = false → (nextSample s).1.cmdValid = true → (nextSample s).1.setupHold = true) := by
  constructor
  · rintro ⟨t, ht⟩ hr hv
    refine Bool.eq_true_of_not_eq_false fun hh => ?_
    rw [step_eq_refused hr hv hh] at ht
    cases ht
  · exact fun htime => exists_takeSample_eq_next htime _

/-- What a word leaves in `crc` depends on the word and `crc` alone (10_state.md R12). -/
theorem applyWord_crc_congr {s s' : State} (h : s'.crc = s.crc) (w : Word) :
    (s'.applyWord w).crc = (s.applyWord w).crc := by
  unfold State.applyWord acceptWord
  cases decode w with
  | instr i =>
    cases i with
    | nop => exact h
    | init => rfl
    | feed b => exact congrArg (crcStep · b) h
  | illegal _ _ => exact h

/-- What a step leaves in `crc`, once a reset has taken effect (10_state.md R12, R22). -/
theorem step_crc {s t : State} (hs : s.wasReset = true) (h : step s = .next t) :
    t.crc = if (nextSample s).1.rst then 0xFFFF#16
      else if (nextSample s).1.cmdValid then (s.applyWord (nextSample s).1.cmdWord).crc else s.crc := by
  rcases step_cases_of_wasReset hs h with ⟨hr, rfl⟩ | ⟨hr, hv, -, rfl⟩ | ⟨hr, hv, rfl⟩
  · simp [hr]
  · simp [hr, hv]
  · simp [hr, hv]

theorem nextSample_fst_congr {s s' : State} (h : s'.inputs = s.inputs) : (nextSample s').1 = (nextSample s).1 := by
  unfold nextSample
  rw [h]
  cases s.inputs <;> rfl

/-- Reset dominates whatever else the sample offers (60_exceptions.md R82). -/
theorem step_of_rst {s : State} {e : PortSample} {rest : List PortSample} (hi : s.inputs = e :: rest)
    (hr : e.rst = true) : step s = .next { s.resetRegs with inputs := rest } := by
  rw [step, nextSample_cons hi, takeSample, if_pos hr]
  rfl

/-! What an illegal word does (60_exceptions.md R79). -/

theorem applyWord_of_illegalWord {w : Word} (h : Safety.illegalWord w = true) (s : State) :
    s.applyWord w = s.raiseIllegal w :=
  Host.Outcome.next.inj ((acceptWord_eq_next w s).symm.trans (acceptWord_of_illegalWord h s))

/-- With an error recorded there is nothing left to record. -/
theorem State.raiseIllegal_of_err {s : State} (h : s.err = true) (w : Word) : s.raiseIllegal w = s := by
  obtain ⟨crc, err, errWord, wasReset, inputs, draws⟩ := s
  obtain rfl : err = true := h
  rfl

theorem latencyOf_of_illegalWord {w : Word} (h : Safety.illegalWord w = true) (p : Config.Params) :
    latencyOf p w = p.latIllegal := by
  obtain ⟨kind, hd⟩ := exists_decode_of_illegalWord h
  rw [latencyOf, hd]

/-- A command does not read or write the error record (60_exceptions.md R79). -/
theorem exec_with_errorRecord {i : Instr} {s t : State} (h : exec i s = .next t) (e : Bool) (v : Word) :
    exec i { s with err := e, errWord := v } = .next { t with err := e, errWord := v } := by
  cases i with
  | nop => rw [exec_nop] at h; cases h; rfl
  | init => rw [exec_init] at h; cases h; rfl
  | feed b => rw [exec_feed] at h; cases h; rfl

/-! The statements about the exception (60_exceptions.md). -/

/-- Settles O14: a sample that is not of the refused kind is in time, so it has a step (`exists_step_eq_next_iff`), which
takes it off the port. -/
theorem engineNeverStalls : Obligations.EngineNeverStalls := by
  unfold Obligations.EngineNeverStalls
  intro s
  dsimp only
  split
  next hviolated =>
    obtain ⟨hr, hv, hh⟩ := hviolated
    exact step_eq_refused hr hv hh
  next hviolated =>
    obtain ⟨t, ht⟩ := (exists_step_eq_next_iff s).mpr fun hr hv =>
      Bool.eq_true_of_not_eq_false fun hh => hviolated ⟨hr, hv, hh⟩
    exact ⟨t, ht, step_inputs ht⟩

/-- Settles O17: both states meet the same sample, which alone decides whether there is a step (`exists_step_eq_next_iff`)
and, with `crc`, what it leaves there (`step_crc`). -/
theorem errorRecordDoesNotTouchCrc : Obligations.ErrorRecordDoesNotTouchCrc := by
  unfold Obligations.ErrorRecordDoesNotTouchCrc
  intro s s' t hs hs' hcrc hi h
  have hsample := nextSample_fst_congr hi
  have htime := (exists_step_eq_next_iff s).mp ⟨t, h⟩
  rw [← hsample] at htime
  obtain ⟨t', h'⟩ := (exists_step_eq_next_iff s').mpr htime
  refine ⟨t', h', ?_, ?_⟩
  · rw [step_crc hs' h', step_crc hs h, hsample, applyWord_crc_congr hcrc, hcrc]
  · rw [step_inputs h', step_inputs h, hi]

/-- Settles O19: the step accepts the word, whose effect is `raiseIllegal`; on the clock level that effect is in the state,
and the engine idle again, when the latency of an illegal word has passed (`edges_of_command`). -/
theorem illegalCommandIsRecorded : Obligations.IllegalCommandIsRecorded := by
  unfold Obligations.IllegalCommandIsRecorded
  refine ⟨fun s e rest hs hi hr hv hh hw => ?_, fun i s t v h => exec_with_errorRecord h true v,
    fun p c w rest hidle hw hi => ?_⟩
  · exact (step_of_command hs hi hr hv hh).trans (acceptWord_of_illegalWord hw _)
  · obtain ⟨hreset, -, -⟩ := (idle_iff c).mp hidle
    have hlat : latencyOf p w = (List.replicate p.latIllegal idleSample).length := by
      rw [latencyOf_of_illegalWord hw, List.length_replicate]
    have hedges := edges_of_command hidle hlat (noReset_replicate_idleSample _) hi
    rw [List.length_replicate, applyWord_of_illegalWord hw] at hedges
    exact ⟨_, hedges, cmdReady_of_idle ((idle_iff _).mpr ⟨hreset, rfl, rfl⟩), rfl⟩

/-- Settles O22: a run without a reset is the acceptance of its words (`runSteps_eq_applyWords`), none of which changes a
record that is set; a reset overwrites the three registers. -/
theorem errorStaysUntilReset : Obligations.ErrorStaysUntilReset := by
  unfold Obligations.ErrorStaysUntilReset
  refine ⟨fun es rest s t hs hi hno he h => ?_, fun w s he hw => ?_, fun s e rest hi hr => ?_⟩
  · obtain rfl := runSteps_eq_applyWords hs hi hno h
    exact ⟨by simp [applyWords_err, he], applyWords_errWord_of_err he _⟩
  · rw [acceptWord_of_illegalWord hw, State.raiseIllegal_of_err he]
  · exact ⟨_, step_of_rst hi hr, rfl, rfl, rfl⟩

end Sys2Proof.Machine

/-! Reset and hazards (70_reset_and_hazards.md): what an edge under reset leaves, how many edges it takes until an engine
is ready, and what is free before the first reset. -/

namespace Sys2Proof.Machine

/-! Edges under reset (70_reset_and_hazards.md R92, R93, R95). -/

theorem edge_of_rst_cons {p : Config.Params} {c : Clocked} {e : PortSample} {rest : List PortSample}
    (hi : c.eng.inputs = e :: rest) (hr : e.rst = true) :
    c.edge p = .next (Clocked.underReset p (c.held + 1) { c with eng := { c.eng with inputs := rest } }) := by
  rw [edge_cons p c e rest hi, if_pos hr]

/-- The edge that completes the minimum hold leaves the reset state, and of the engine before it the coming samples and the
draw counter alone (70_reset_and_hazards.md R92). -/
theorem edge_of_rst_held {p : Config.Params} {c : Clocked} {e : PortSample} {rest : List PortSample}
    (hi : c.eng.inputs = e :: rest) (hr : e.rst = true) (hheld : p.resetHold ≤ c.held + 1) :
    c.edge p = .next
      { eng := { State.reset with inputs := rest, draws := c.eng.draws }, inFlight := none, settle := p.readyDelay,
        held := c.held + 1 } := by
  rw [edge_of_rst_cons hi hr, Clocked.underReset, if_pos hheld]
  rfl

/-- `rst` held for the minimum leaves the reset state with the ready delay running, from every state
(70_reset_and_hazards.md R95). -/
theorem exists_edges_resetSample {p : Config.Params} {c : Clocked} {n : Nat} {rest : List PortSample} (hn : 1 ≤ n)
    (hheld : p.resetHold ≤ c.held + n) (hi : c.eng.inputs = List.replicate n resetSample ++ rest) :
    ∃ draws held, c.edges p n = .next
      { eng := { State.reset with inputs := rest, draws := draws }, inFlight := none, settle := p.readyDelay,
        held := held } := by
  induction n, hn using Nat.le_induction generalizing c with
  | base => exact ⟨_, _, edges_of_edge (edge_of_rst_held hi rfl hheld) 0⟩
  | succ n _ ih =>
    rw [edges_of_edge (edge_of_rst_cons hi rfl)]
    exact ih (by rw [underReset_held]; omega) (underReset_inputs _ _ _)

@[simp] theorem rstRises_inputs (p : Config.Params) (c : Clocked) : (c.rstRises p).eng.inputs = c.eng.inputs := by
  unfold Clocked.rstRises
  cases p.resetStyle with
  | sync => rfl
  | async => exact underReset_inputs p 0 c

/-- A rise of `rst` between edges counts no edge (70_reset_and_hazards.md R95). -/
theorem rstRises_held {c : Clocked} (h : c.held = 0) (p : Config.Params) : (c.rstRises p).held = 0 := by
  unfold Clocked.rstRises
  cases p.resetStyle with
  | sync => exact h
  | async => rfl

/-! How many edges it takes until an engine is ready (70_reset_and_hazards.md R95, R102, R103). -/

theorem noReset_append {es fs : List PortSample} :
    Safety.noReset (es ++ fs) = true ↔ Safety.noReset es = true ∧ Safety.noReset fs = true := by
  simp [Safety.noReset]

theorem noReset_replicate {e : PortSample} (he : e.rst = false) (n : Nat) :
    Safety.noReset (List.replicate n e) = true := by
  simp [Safety.noReset, he]

/-- An edge without a reset once a reset has taken effect, with the sample `e` on the ports. -/
theorem edge_of_running_cons {p : Config.Params} {c : Clocked} {e : PortSample} {rest : List PortSample}
    (hi : c.eng.inputs = e :: rest) (hr : e.rst = false) (hw : c.eng.wasReset = true) :
    c.edge p = Clocked.running p e { c with eng := { c.eng with inputs := rest }, held := 0 } := by
  simp [edge_cons p c e rest hi, hr, hw]

theorem edgesToReady_of_none {c : Clocked} (h : c.inFlight = none) : c.edgesToReady = c.settle := by
  simp [Clocked.edgesToReady, h]

theorem edgesToReady_of_some {c : Clocked} {q : InFlight} (h : c.inFlight = some q) :
    c.edgesToReady = max q.left 1 + c.settle := by
  simp [Clocked.edgesToReady, h]

/-- The command in progress does not read or write what the host drives next. -/
theorem settled_with_inputs (c : Clocked) (ins : List PortSample) :
    Clocked.settled { c with eng := { c.eng with inputs := ins } } = { c.settled with inputs := ins } := by
  cases hf : c.inFlight with
  | none => rw [settled_of_none hf, settled_of_none rfl]
  | some q => rw [settled_of_some hf, settled_of_some rfl, applyWord_inputs]

/-- A ready delay runs out at as many edges as it has left, whatever is on the ports but a reset
(70_reset_and_hazards.md R95). -/
theorem exists_edges_settle {p : Config.Params} {c : Clocked} {es rest : List PortSample} (hw : c.eng.wasReset = true)
    (hf : c.inFlight = none) (hlength : es.length = c.settle) (hno : Safety.noReset es = true)
    (hi : c.eng.inputs = es ++ rest) :
    ∃ held, c.edges p es.length =
      .next { eng := { c.eng with inputs := rest }, inFlight := none, settle := 0, held := held } := by
  induction es generalizing c with
  | nil =>
    obtain ⟨eng, inFlight, settle, held⟩ := c
    obtain rfl : inFlight = none := hf
    obtain rfl : 0 = settle := hlength
    obtain rfl : eng.inputs = rest := hi
    exact ⟨held, rfl⟩
  | cons e es ih =>
    obtain ⟨he, hno⟩ := noReset_cons.mp hno
    have hcount : c.settle ≠ 0 := by rw [← hlength]; exact Nat.succ_ne_zero _
    have hedge : c.edge p =
        .next { c with eng := { c.eng with inputs := es ++ rest }, settle := c.settle - 1, held := 0 } := by
      rw [edge_of_running_cons hi he hw]
      simp [Clocked.running, hf, hcount]
    rw [List.length_cons, edges_of_edge hedge]
    exact ih hw hf (by rw [← hlength]; rfl) hno rfl

/-- The command in progress completes at as many edges as it has left, and at one where none is left. -/
theorem edges_of_inFlight_max {p : Config.Params} {c : Clocked} {q : InFlight} {es rest : List PortSample}
    (hw : c.eng.wasReset = true) (hf : c.inFlight = some q) (hlength : es.length = max q.left 1)
    (hno : Safety.noReset es = true) (hi : c.eng.inputs = es ++ rest) :
    c.edges p es.length =
      .next { eng := { c.settled with inputs := rest }, inFlight := none, settle := c.settle, held := 0 } := by
  rcases Nat.eq_zero_or_pos q.left with hzero | hpos
  · obtain ⟨e, rfl⟩ := List.length_eq_one_iff.mp (by rw [hlength, hzero]; rfl)
    have hr : (nextSample c.eng).1.rst = false := by rw [nextSample_cons hi]; exact (noReset_cons.mp hno).1
    rw [List.length_singleton, edges_of_edge (edge_of_last_wait hr hw hf (hzero.trans_le (Nat.zero_le 1))),
      settled_taken, hi]
    rfl
  · have hleft : q.left = es.length := by omega
    exact edges_of_inFlight hw hf hleft (List.ne_nil_of_length_pos (hleft ▸ hpos)) hno hi

/-- After `edgesToReady` edges without a reset the command in progress has completed and the ready delay has run out,
whatever is on the ports (70_reset_and_hazards.md R103). -/
theorem exists_edges_edgesToReady {p : Config.Params} {c : Clocked} {es rest : List PortSample}
    (hw : c.eng.wasReset = true) (hlength : es.length = c.edgesToReady) (hno : Safety.noReset es = true)
    (hi : c.eng.inputs = es ++ rest) :
    ∃ held, c.edges p es.length =
      .next { eng := { c.settled with inputs := rest }, inFlight := none, settle := 0, held := held } := by
  cases hf : c.inFlight with
  | none =>
    rw [edgesToReady_of_none hf] at hlength
    rw [settled_of_none hf]
    exact exists_edges_settle hw hf hlength hno hi
  | some q =>
    rw [edgesToReady_of_some hf] at hlength
    obtain ⟨fs, gs, rfl, hfs⟩ : ∃ fs gs, es = fs ++ gs ∧ fs.length = max q.left 1 :=
      ⟨es.take (max q.left 1), es.drop (max q.left 1), (List.take_append_drop _ _).symm, by
        rw [List.length_take]; omega⟩
    obtain ⟨hnofs, hnogs⟩ := noReset_append.mp hno
    rw [List.length_append] at hlength ⊢
    rw [edges_add _ _ _ _ _ (edges_of_inFlight_max hw hf hfs hnofs (hi.trans (List.append_assoc _ _ _)))]
    have hgs : gs.length = c.settle := by omega
    exact exists_edges_settle ((settled_wasReset c).trans hw) rfl hgs hnogs rfl

/-- While edges are left the command in progress stays so, and no register changes (70_reset_and_hazards.md R102). -/
theorem exists_edges_wait {p : Config.Params} {c : Clocked} {q : InFlight} {es rest : List PortSample}
    (hw : c.eng.wasReset = true) (hf : c.inFlight = some q) (hmore : es.length < q.left)
    (hno : Safety.noReset es = true) (hi : c.eng.inputs = es ++ rest) :
    ∃ d, c.edges p es.length = .next d ∧ d.eng = { c.eng with inputs := rest } ∧ d.inFlight ≠ none := by
  induction es generalizing c q with
  | nil =>
    obtain rfl : c.eng.inputs = rest := hi
    exact ⟨c, rfl, rfl, by simp [hf]⟩
  | cons e es ih =>
    obtain ⟨he, hno⟩ := noReset_cons.mp hno
    rw [List.length_cons] at hmore
    have hr : (nextSample c.eng).1.rst = false := by rw [nextSample_cons hi]; exact he
    obtain ⟨d, hd, heng, hfd⟩ := ih
      (c := { c.taken 0 with inFlight := some { q with left := q.left - 1 } }) hw rfl
      (Nat.lt_sub_of_add_lt hmore) hno (congrArg List.tail hi)
    exact ⟨d, by rw [List.length_cons, edges_of_edge (edge_of_wait hr hw hf (by omega)), hd], heng, hfd⟩

theorem cmdReady_of_inFlight {c : Clocked} (hw : c.eng.wasReset = true) (hf : c.inFlight ≠ none) :
    c.cmdReady false = false := by
  have hidle : c.idle ≠ true := fun h => hf ((idle_iff c).mp h).2.1
  simpa [Clocked.cmdReady, hw] using hidle

/-- After `rst` has been held for the minimum and the ready delay has passed, the engine is ready in the reset state
(70_reset_and_hazards.md R95). -/
theorem exists_edges_reset_ready {p : Config.Params} {c : Clocked} {n : Nat} {rest : List PortSample} (hn : 1 ≤ n)
    (hheld : p.resetHold ≤ n)
    (hi : c.eng.inputs = List.replicate n resetSample ++ (List.replicate p.readyDelay idleSample ++ rest)) :
    ∃ d draws, c.edges p (n + p.readyDelay) = .next d ∧ d.cmdReady false = true ∧
      d.eng = { State.reset with inputs := rest, draws := draws } := by
  obtain ⟨draws, held, hreset⟩ := exists_edges_resetSample hn (Nat.le_add_left_of_le hheld) hi
  obtain ⟨held', hready⟩ := exists_edges_settle (p := p)
    (c := ⟨{ State.reset with inputs := List.replicate p.readyDelay idleSample ++ rest, draws := draws }, none,
      p.readyDelay, held⟩)
    rfl rfl List.length_replicate (noReset_replicate rfl _) rfl
  rw [List.length_replicate] at hready
  exact ⟨_, draws, (edges_add _ _ _ _ _ hreset).trans hready, cmdReady_of_idle rfl, rfl⟩

/-! The handshake (70_reset_and_hazards.md R98). -/

/-- What is offered to an engine that is not ready does not matter. -/
theorem running_congr_of_not_ready {c : Clocked} (hn : c.inFlight = none → c.settle ≠ 0) (p : Config.Params)
    (e e' : PortSample) : Clocked.running p e c = Clocked.running p e' c := by
  unfold Clocked.running
  cases hf : c.inFlight with
  | none => simp [hn hf]
  | some q => rfl

/-! Before the first reset (70_reset_and_hazards.md R96). -/

/-- A step before the first reset leaves an unspecified engine, whatever it offers in time. -/
theorem step_before_reset {s : State} (hs : s.wasReset = false) (hr : (nextSample s).1.rst = false)
    (htime : (nextSample s).1.cmdValid = true → (nextSample s).1.setupHold = true) :
    step s = .next { s.unspecified with inputs := s.inputs.tail } := by
  obtain ⟨t, ht⟩ := (exists_step_eq_next_iff s).mpr fun _ => htime
  rcases step_cases ht with ⟨hr', -⟩ | ⟨-, -, rfl⟩ | ⟨-, hs', -⟩ | ⟨-, hs', -⟩
  · rw [hr] at hr'; cases hr'
  · exact ht
  · rw [hs] at hs'; cases hs'
  · rw [hs] at hs'; cases hs'

/-- A run without a reset leaves the engine unspecified, and each step draws once (log entry 9). -/
theorem exists_runSteps_before_reset {es rest : List PortSample} {s : State} (hs : s.wasReset = false)
    (hi : s.inputs = es ++ rest) (hno : Safety.noReset es = true) (htimed : Safety.timed es = true) :
    ∃ t, runSteps es.length s = .next t ∧ t.wasReset = false ∧ t.inputs = rest ∧ t.draws = s.draws + es.length := by
  induction es generalizing s with
  | nil => exact ⟨s, rfl, hs, hi, rfl⟩
  | cons e es ih =>
    obtain ⟨hr, hno⟩ := noReset_cons.mp hno
    obtain ⟨he, htimed⟩ := timed_cons.mp htimed
    have hnext : (nextSample s).1 = e := by rw [nextSample_cons hi]
    have hstep := step_before_reset hs (hnext ▸ hr) (hnext ▸ he hr)
    obtain ⟨t, hrun, ht, hti, hdraws⟩ := ih (s := { s.unspecified with inputs := s.inputs.tail }) rfl
      (congrArg List.tail hi) hno htimed
    refine ⟨t, by rw [List.length_cons, runSteps, hstep]; exact hrun, ht, hti, ?_⟩
    rw [hdraws, State.unspecified_draws, List.length_cons]
    omega

/-- Samples that are in time and hold no reset are all taken on the clock level too: no edge is refused. -/
theorem exists_edges_before_reset {p : Config.Params} {es rest : List PortSample} {c : Clocked}
    (hw : c.eng.wasReset = false) (hi : c.eng.inputs = es ++ rest) (hno : Safety.noReset es = true)
    (htimed : Safety.timed es = true) :
    ∃ d, c.edges p es.length = .next d ∧ d.eng.inputs = rest := by
  induction es generalizing c with
  | nil => exact ⟨c, rfl, hi⟩
  | cons e es ih =>
    obtain ⟨hr, hno⟩ := noReset_cons.mp hno
    obtain ⟨he, htimed⟩ := timed_cons.mp htimed
    have hnext : (nextSample c.eng).1 = e := by rw [nextSample_cons hi]
    have hedge := edge_of_beforeReset (p := p) (hnext ▸ hr) hw
    rw [hnext] at hedge
    rcases beforeReset_cases e (c.taken 0) with ⟨hv, hh, -⟩ | hbefore
    · rw [he hr hv] at hh; cases hh
    · rw [List.length_cons, edges_of_edge (hedge.trans hbefore)]
      exact ih rfl (congrArg List.tail hi) hno htimed

/-! The statements about reset and hazards (70_reset_and_hazards.md). -/

/-- Settles O25: reset overwrites the registers on every path, and FEEDS folds its bytes from the preset. -/
theorem resetDominates : Obligations.ResetDominates := by
  unfold Obligations.ResetDominates
  refine ⟨fun s e rest => step_of_rst, fun c => rfl, fun p c e rest hi hr => ?_, fun s bs => ?_⟩
  · exact ⟨_, edge_of_rst_cons hi hr, underReset_inFlight _ _ _⟩
  · rw [applyWords_feeds]
    rfl

/-- Settles O27: a reset keeps nothing of the power-up registers; before it the ports read the draw counter alone; on the
clock level the samples before the reset leave the engine in some state, and every state becomes ready
(`exists_edges_reset_ready`). -/
theorem powerUpThenReset : Obligations.PowerUpThenReset := by
  unfold Obligations.PowerUpThenReset
  refine ⟨fun e rest hr => step_of_rst rfl hr, fun bs => ?_, ?_, fun p es rest n hno htimed hn hheld => ?_⟩
  · have hreset : step (State.powerUp (resetSample :: commandSamples (pseudoWords (.feeds bs)))) =
        .next { State.reset with inputs := commandSamples (pseudoWords (.feeds bs)) } := step_of_rst rfl rfl
    have hfeeds := runSteps_commandSamples (rest := [])
      (s := { State.reset with inputs := commandSamples (pseudoWords (.feeds bs)) }) rfl (List.append_nil _).symm
    rw [length_pseudoWords_feeds, applyWords_feeds] at hfeeds
    rw [runSteps, hreset]
    exact hfeeds
  · rintro s crc err errWord c hs rfl
    refine ⟨?_, fun rst => ?_, fun rst => ?_⟩
    · exact (State.outputs_before_reset (s := { c.eng with crc := crc, err := err, errWord := errWord }) hs).trans
        (State.outputs_before_reset hs).symm
    · simp [Clocked.cmdReady, hs]
    · simp [Clocked.sample, Clocked.idle, hs, State.freeOutputs]
  · obtain ⟨d, hbefore, hd⟩ := exists_edges_before_reset (p := p)
      (c := Clocked.powerUp (es ++ (List.replicate n resetSample ++ (List.replicate p.readyDelay idleSample ++ rest))))
      rfl rfl hno htimed
    rw [edges_add _ _ _ _ _ hbefore]
    exact exists_edges_reset_ready hn hheld hd

/-- Settles O28: what the edge leaves reads the coming samples and the draw counter alone (`edge_of_rst_held`), and a
command changes neither. -/
theorem resetAbortsInFlight : Obligations.ResetAbortsInFlight := by
  unfold Obligations.ResetAbortsInFlight
  intro p c e rest q hi hr hheld hf
  have hedge := edge_of_rst_held hi hr hheld
  refine ⟨⟨_, hedge, rfl, rfl⟩, ?_⟩
  rw [← settled_of_some hf, hedge,
    edge_of_rst_held (c := { c with eng := c.settled, inFlight := none }) ((settled_inputs c).trans hi) hr hheld,
    settled_draws]

/-- Settles O29: a rise of `rst` before the first edge leaves some state with the same samples to come and no edge counted,
and from every state the same follows (`exists_edges_reset_ready`, `edge_of_rst_held`). -/
theorem resetStyleIsNotObservable : Obligations.ResetStyleIsNotObservable := by
  unfold Obligations.ResetStyleIsNotObservable
  refine ⟨fun p c n rest hn hheld hi => ⟨?_, ?_⟩, fun p c e rest hi hr hzero hhold => ?_⟩
  · exact exists_edges_reset_ready hn hheld hi
  · exact exists_edges_reset_ready hn hheld ((rstRises_inputs p c).trans hi)
  · have hrises := rstRises_held hzero p
    refine ⟨_, (c.rstRises p).eng.draws, edge_of_rst_held hi hr (by omega), ?_⟩
    rw [edge_of_rst_held ((rstRises_inputs p c).trans hi) hr (by omega), hrises, hzero]

/-- Settles O48: FEEDS goes on from the checksum that CHECKSUM leaves, which is `0x0000` for a valid frame; the example by
evaluation. -/
theorem messagesChainWithoutInit : Obligations.MessagesChainWithoutInit := by
  unfold Obligations.MessagesChainWithoutInit
  have hchain (s : State) (xs ys : List Byte) :
      (s.applyWords (pseudoWords (.checksum xs) ++ pseudoWords (.feeds ys))).crc = crcFrom (checksum xs) ys := by
    rw [applyWords_append, applyWords_checksum, applyWords_feeds]
  refine ⟨fun s xs ys => ?_, fun s f ys hvalid => ?_, by decide, by decide⟩
  · rw [hchain, checksum_append]
  · rw [hchain, (validate_eq_true_iff f).mp hvalid]

/-- Settles O53: an engine that is not ready does not read the port, one that is ready accepts only what `cmd_valid` offers,
and after `edgesToReady` edges the word that is still on the port is accepted. -/
theorem commandsOnlyThroughHandshake : Obligations.CommandsOnlyThroughHandshake := by
  unfold Obligations.CommandsOnlyThroughHandshake
  refine ⟨fun p c e e' rest hw hi he he' => ?_, fun p c e rest hidle he hv hi => ?_, fun p c w rest hw hi => ?_⟩
  · have hn : c.inFlight = none → c.settle ≠ 0 := fun hf hs => by simp [(idle_iff c).mpr ⟨hw, hf, hs⟩] at hi
    have hedge (e : PortSample) (he : e.rst = false) :
        Clocked.edge p { c with eng := { c.eng with inputs := e :: rest } } =
          Clocked.running p e { c with eng := { c.eng with inputs := rest }, held := 0 } :=
      edge_of_running_cons rfl he hw
    rw [hedge e he, hedge e' he']
    exact running_congr_of_not_ready (c := ⟨_, c.inFlight, c.settle, 0⟩) hn p e e'
  · obtain ⟨hw, hf, hs⟩ := (idle_iff c).mp hidle
    rw [edge_of_running_cons hi he hw]
    simp [Clocked.running, hf, hs, hv]
  · rw [List.replicate_succ', List.append_assoc, List.singleton_append] at hi
    obtain ⟨held, hready⟩ := exists_edges_edgesToReady (p := p) hw List.length_replicate (noReset_replicate rfl _) hi
    rw [List.length_replicate] at hready
    obtain ⟨d, hd, hsettled⟩ := accept_settled p w
      { eng := { c.settled with inputs := rest }, inFlight := none, settle := 0, held := 0 }
    have hidle : Clocked.idle ⟨{ c.settled with inputs := commandSample w :: rest }, none, 0, held⟩ = true :=
      (idle_iff _).mpr ⟨(settled_wasReset c).trans hw, rfl, rfl⟩
    refine ⟨d, ?_, by rw [hsettled, applyWord_inputs]⟩
    rw [edges_add _ _ _ _ _ hready, edges_of_edge ((edge_of_command hidle rfl).trans hd), Clocked.edges]

/-- Settles O54: the number of edges is `edgesToReady` (`exists_edges_edgesToReady`). -/
theorem engineBecomesReady : Obligations.EngineBecomesReady := by
  unfold Obligations.EngineBecomesReady
  refine fun p c hw => ⟨c.edgesToReady, fun es rest hlength hno => ?_⟩
  obtain ⟨held, hready⟩ := exists_edges_edgesToReady (p := p)
    (c := { c with eng := { c.eng with inputs := es ++ rest } }) hw hlength hno rfl
  rw [hlength] at hready
  refine ⟨_, hready, cmdReady_of_idle ((idle_iff _).mpr ⟨?_, rfl, rfl⟩), ?_⟩
  · exact (settled_wasReset _).trans hw
  · rw [settled_with_inputs]

/-- Settles O55: `LAT_op` edges after the acceptance the effect is in the state (`edges_of_command`), and at fewer the
command is in progress (`exists_edges_wait`). -/
theorem latencyIsExact : Obligations.LatencyIsExact := by
  unfold Obligations.LatencyIsExact
  intro p c w rest j hidle hj hi
  obtain ⟨hw, -, -⟩ := (idle_iff c).mp hidle
  rcases hj.eq_or_lt with rfl | hlt
  · have hedges := edges_of_command hidle List.length_replicate.symm (noReset_replicate_idleSample _) hi
    rw [List.length_replicate] at hedges
    refine ⟨_, hedges, iff_of_true (cmdReady_of_idle ((idle_iff _).mpr ⟨?_, rfl, rfl⟩)) rfl,
      fun h => absurd h (Nat.lt_irrefl _), fun _ => rfl⟩
    exact (applyWord_wasReset w c.eng).1.trans hw
  · obtain ⟨k, hk⟩ := Nat.exists_eq_add_of_lt hlt
    have haccept := edge_of_command (p := p) hidle hi
    rw [Clocked.accept, hk] at haccept
    have htail : c.eng.inputs.tail = List.replicate j idleSample ++ (List.replicate (k + 1) idleSample ++ rest) := by
      rw [hi, hk, Nat.add_assoc, List.replicate_add, List.append_assoc, List.tail_cons]
    obtain ⟨d, hd, heng, hfd⟩ := exists_edges_wait (p := p)
      (c := { c.taken 0 with inFlight := some { word := w, left := j + k + 1 } }) hw rfl
      (by rw [List.length_replicate]; dsimp only; omega) (noReset_replicate_idleSample j) htail
    rw [List.length_replicate] at hd
    have hbusy := cmdReady_of_inFlight (c := d) (by rw [heng]; exact hw) hfd
    refine ⟨d, (edges_of_edge haccept j).trans hd, ?_, fun _ => by rw [heng]; rfl, fun h => absurd h hlt.ne⟩
    exact iff_of_false (by simp [hbusy]) hlt.ne

/-- Settles O60: a step before the first reset draws the registers anew (`step_before_reset`), so a run ends unspecified, and
the reset after it keeps the draw counter alone. -/
theorem unspecifiedUntilReset : Obligations.UnspecifiedUntilReset := by
  unfold Obligations.UnspecifiedUntilReset
  refine ⟨fun s => step_before_reset, fun s t h => ?_, fun es rest s hs hi hno htimed => ?_,
    fun es rest hno htimed => ?_⟩
  · rcases step_cases h with ⟨hr, rfl⟩ | ⟨hr, hs, rfl⟩ | ⟨-, hs, -, -, rfl⟩ | ⟨-, hs, -, rfl⟩
    · simp [hr]
    · simp [hr, hs]
    · simp [hs, (applyWord_wasReset _ s).1]
    · simp [hs]
  · obtain ⟨t, hrun, ht, hti, hdraws⟩ := exists_runSteps_before_reset hs hi hno htimed
    exact ⟨t, hrun, ht, State.outputs_before_reset ht, hti, hdraws⟩
  · obtain ⟨t, hrun, -, hti, hdraws⟩ := exists_runSteps_before_reset
      (s := State.powerUp (es ++ resetSample :: rest)) rfl rfl hno htimed
    have hzero : t.draws = es.length := hdraws.trans (Nat.zero_add _)
    rw [runSteps_add _ _ _ _ hrun, runSteps, step_of_rst hti rfl, ← hzero]
    rfl

/-- Settles O58: reset overwrites what the sample offers, and the edge reads of it only `rst`. -/
theorem resetAcceptsNoCommand : Obligations.ResetAcceptsNoCommand := by
  unfold Obligations.ResetAcceptsNoCommand
  refine ⟨fun s e rest hi hr => ?_, fun p c e rest hi hr => ?_⟩
  · rw [step_of_rst hi hr, step_of_rst (s := { s with inputs := resetSample :: rest }) rfl rfl]
    rfl
  · rw [edge_of_rst_cons hi hr,
      edge_of_rst_cons (c := { c with eng := { c.eng with inputs := resetSample :: rest } }) rfl rfl]

end Sys2Proof.Machine
